-- ==== Sys2Proof/Word.lean ====
section
/-! DEFINITION. Sys2Proof/Word.lean: the two words of the block: a byte (00_scope.md R9) and the 16-bit
register BC (10_state.md R24). Lengths, sums and indices are natural numbers that never wrap (R9). -/

namespace Sys2Proof

/-- A byte, an unsigned integer 0 to 255 (R9). -/
abbrev Byte := BitVec 8

/-- The width of BC (R24). -/
abbrev Half := BitVec 16

/-- The `info` of a channel fault, opaque to PSM (20_memory.md R54). DESIGN CHOICE (log 10): a natural number
stands for it; nothing inspects it. -/
abbrev FaultInfo := Nat

end Sys2Proof
end

