-- ==== Sys2Proof/Config.lean ====
section
/-! DEFINITION. Sys2Proof/Config.lean: the parameters of 00_scope.md R6: the constants the source fixes, and the
record of those that have a named alternative or that R6 leaves OPEN (the model takes them as an argument, which
State carries: log 9). T_SETTLE and PORT_BINDING are left out: no rule depends on them (log 18). -/

namespace Sys2Proof

/-- MODE's three values (10_state.md R21). The value 3 of the two bits is never held, so it has no constructor. -/
inductive Mode where
  | idle
  | sampling
  | transmit
deriving DecidableEq, Repr

/-- MODE's two bits as the ST port shows them (R21). -/
def Mode.code : Mode → BitVec 2
  | .idle => 0
  | .sampling => 1
  | .transmit => 2

/-- COUNT_DECODE: how the two count bytes of the transmit report become a number (30_encoding.md R92). -/
inductive CountDecode where
  | raw16be
  | asciihex2
deriving DecidableEq, Repr

/-- The parameters of R6 that are not constants of the source. -/
structure Config where
  /-- COUNT_DECODE (R6, R92). -/
  countDecode : CountDecode
  /-- IR_MODE_RESULT, the value MODE takes after IRMODE (R6, 41_mode_transitions.md R132). -/
  irModeResult : Mode
  /-- MAX_CODE_LEN, none for unbounded (R6, 43_transmit.md R170). -/
  maxCodeLen : Option Nat
  /-- RBUF_MAX, none for unbounded (R6, 10_state.md R32). -/
  rbufMax : Option Nat
deriving DecidableEq, Repr

namespace Config

/-- The defaults R6 names. -/
def default : Config :=
  { countDecode := .raw16be, irModeResult := .idle, maxCodeLen := none, rbufMax := none }

/-- FW_MIN: the least firmware version CONSTRUCT accepts (R6). -/
def fwMin : Nat := 22

/-- CHUNK_MAX: the most code bytes in one chunk write (R6; a constant, 70_reset_and_hazards.md R248). -/
def chunkMax : Nat := 32

/-- VERSION_RESP_LEN (R6). -/
def versionRespLen : Nat := 4

/-- PROTO_RESP_LEN (R6). -/
def protoRespLen : Nat := 3

/-- REPORT_HEAD_LEN (R6). -/
def reportHeadLen : Nat := 3

/-- TERM_MIN_COUNT: the least count of bytes read at which the terminator detector may fire (R6). -/
def termMinCount : Nat := 3

/-- One byte of SENTINEL, the end-of-signal pair 0xFF 0xFF (R6). -/
def sentinelByte : Byte := 0xFF

end Config

end Sys2Proof
end

