-- ==== Sys2Proof/Syntax.lean ====
section
/-! DEFINITION. Sys2Proof/Syntax.lean: the instructions, one constructor per row of spec/opcode_table.json
(30_encoding.md R100): the eight host rows (R80, R94) and the eight wire rows (R85); and the two forms in which the
sequencer meets their encodings. -/

namespace Sys2Proof

/-- The instructions of spec/opcode_table.json. -/
inductive Instr where
  /-- CONSTRUCT, op 0 (40_version_construct.md R113). -/
  | construct
  /-- FWREV, op 1 (R111). -/
  | fwrev
  /-- RESET, op 2 (41_mode_transitions.md R130). -/
  | reset
  /-- SAMPLE, op 3 (R131). -/
  | sample
  /-- IRMODE, op 4 (R132). -/
  | irmode
  /-- RECEIVE, op 5 (42_receive.md R150). -/
  | receive
  /-- TRANSMIT, op 6, with its operand (43_transmit.md R171). -/
  | transmit (code : List Byte)
  /-- op 7 (30_encoding.md R94). -/
  | illegal
  /-- CMD_RESET, five zero bytes (R85). -/
  | cmdReset
  /-- CMD_VERSION, 'v' (R85). -/
  | cmdVersion
  /-- CMD_SAMPLE, 'S' (R85). -/
  | cmdSample
  /-- CMD_IR, "IR" (R85). -/
  | cmdIr
  /-- CMD_TX_HANDSHAKE, 0x26 (R85). -/
  | cmdTxHandshake
  /-- CMD_TX_NOTIFY, 0x25 (R85). -/
  | cmdTxNotify
  /-- CMD_TX_START, 0x03 (R85). -/
  | cmdTxStart
  /-- DATA, one chunk of code bytes (R85; 43_transmit.md R175). -/
  | data (bytes : List Byte)
deriving DecidableEq, Repr

/-- A request on the OP port: the pair (op, operand) (R80). -/
structure Request where
  op : BitVec 3
  operand : List Byte
deriving DecidableEq, Repr

/-- What the sequencer fetches, tagged by the SEQ position it is fetched at: a command and a data chunk are not
distinguishable by their bits, only by the position (R95 and the DATA row's note). -/
inductive FetchWord where
  /-- a request taken from the OP port at SEQ = REST -/
  | request (r : Request)
  /-- the byte string of a command position -/
  | command (bytes : List Byte)
  /-- the byte string of the chunk position TX.WC -/
  | chunk (bytes : List Byte)
deriving DecidableEq, Repr

end Sys2Proof
end

