-- ==== Sys2Proof/WellFormed.lean ====
section
/-! DEFINITION. Sys2Proof/WellFormed.lean: which terms of Instr are instructions of the table. The one row with a
bound is DATA, 1 to 32 bytes (30_encoding.md R85). TRANSMIT's operand may have any length, 0 included: the length
check is PSM's own (R80), a meaning and not a matter of form. -/

namespace Sys2Proof

/-- A DATA chunk is never empty (20_memory.md R51, "non-empty byte sequence"). -/
def Instr.chunkNonempty : Instr → Bool
  | .data bs => decide (1 ≤ bs.length)
  | _ => true

/-- A DATA chunk has at most CHUNK_MAX bytes (R85). -/
def Instr.chunkFits : Instr → Bool
  | .data bs => decide (bs.length ≤ Config.chunkMax)
  | _ => true

/-- The instruction is one the table encodes. -/
def Instr.wf (i : Instr) : Bool := i.chunkNonempty && i.chunkFits

end Sys2Proof
end

