-- ==== Sys2Proof/Decode.lean ====
section
/-! DEFINITION. Sys2Proof/Decode.lean: decoding, total on every fetched word and rejecting by name, then encoding,
both from spec/opcode_table.json and 30_encoding.md R80, R84, R85; then the opcode table's own bit numbering. -/

namespace Sys2Proof

/-- Why a fetched word stands for no instruction. -/
inductive Reject where
  /-- a command string that is none of the seven of R85 -/
  | unknownCommand
  /-- a chunk of no bytes (R51: a ChWrite is of a non-empty byte sequence) -/
  | emptyChunk
  /-- a chunk of more than 32 bytes (R85) -/
  | chunkTooLong
deriving DecidableEq, Repr

/-- The decoder's answer. -/
inductive Decoded where
  | ok (i : Instr)
  | reject (r : Reject)
deriving DecidableEq, Repr

/-- A host request: the decoder needs only `op` (R100); the operand belongs to TRANSMIT (R80). DEDUCED (log 13): an
operand beside another op is not read. -/
def decodeRequest (r : Request) : Instr :=
  match r.op with
  | 0#3 => .construct
  | 1#3 => .fwrev
  | 2#3 => .reset
  | 3#3 => .sample
  | 4#3 => .irmode
  | 5#3 => .receive
  | 6#3 => .transmit r.operand
  | 7#3 => .illegal

/-- A command string (R85). PRESUMED (log 16): the characters are ASCII, as R84 says. -/
def decodeCommand (bs : List Byte) : Decoded :=
  if bs = [0x00, 0x00, 0x00, 0x00, 0x00] then .ok .cmdReset
  else if bs = [0x76] then .ok .cmdVersion
  else if bs = [0x53] then .ok .cmdSample
  else if bs = [0x49, 0x52] then .ok .cmdIr
  else if bs = [0x26] then .ok .cmdTxHandshake
  else if bs = [0x25] then .ok .cmdTxNotify
  else if bs = [0x03] then .ok .cmdTxStart
  else .reject .unknownCommand

/-- A chunk: 1 to 32 bytes, no fixed bits (the DATA row). -/
def decodeChunk (bs : List Byte) : Decoded :=
  if bs = [] then .reject .emptyChunk
  else if bs.length ≤ Config.chunkMax then .ok (.data bs)
  else .reject .chunkTooLong

/-- The decoder. -/
def decode : FetchWord → Decoded
  | .request r => .ok (decodeRequest r)
  | .command bs => decodeCommand bs
  | .chunk bs => decodeChunk bs

/-- The encoder: the request of a host operation (R80), the byte string of a wire command (R85), first byte first. -/
def encode : Instr → FetchWord
  | .construct => .request { op := 0, operand := [] }
  | .fwrev => .request { op := 1, operand := [] }
  | .reset => .request { op := 2, operand := [] }
  | .sample => .request { op := 3, operand := [] }
  | .irmode => .request { op := 4, operand := [] }
  | .receive => .request { op := 5, operand := [] }
  | .transmit code => .request { op := 6, operand := code }
  | .illegal => .request { op := 7, operand := [] }
  | .cmdReset => .command [0x00, 0x00, 0x00, 0x00, 0x00]
  | .cmdVersion => .command [0x76]
  | .cmdSample => .command [0x53]
  | .cmdIr => .command [0x49, 0x52]
  | .cmdTxHandshake => .command [0x26]
  | .cmdTxNotify => .command [0x25]
  | .cmdTxStart => .command [0x03]
  | .data bs => .chunk bs

/-- The bytes a fetched word puts on the channel; a host request puts none. -/
def FetchWord.wireBytes : FetchWord → List Byte
  | .request _ => []
  | .command bs => bs
  | .chunk bs => bs

/-- The bytes an instruction puts on the channel, as one ChWrite (R85). -/
def Instr.wireBytes (i : Instr) : List Byte := (encode i).wireBytes

/-- `n` bytes of a number, most significant first: the table numbers the byte that is first on the wire highest
("byte0: [15:8] = 'I', first on the wire"). DEDUCED (log 15). -/
def bytesMsbFirst : Nat → Nat → List Byte
  | 0, _ => []
  | n + 1, w => BitVec.ofNat 8 (w >>> (8 * n)) :: bytesMsbFirst n w

/-- An opcode-table word laid out as the block meets it. A word of one byte at most whose bits above op[2:0] are 0 is
a host request (no operand bits: an empty operand); a row of no bits is the DATA row, whose operand byte is then 0;
any other word is a byte string on the wire, a command if it is one of the seven and a chunk if not. DESIGN CHOICE
(log 14): the host row SAMPLE and the wire row CMD_TX_START have the same table bits 0x03, since a command is told
from a request by the SEQ position only (R95), and the request is the reading taken. -/
def layTableWord (nbits w : Nat) : FetchWord :=
  if nbits = 0 then .chunk [BitVec.ofNat 8 w]
  else if nbits ≤ 8 ∧ w < 8 then .request { op := BitVec.ofNat 3 w, operand := [] }
  else
    let bs := bytesMsbFirst ((nbits + 7) / 8) w
    match decodeCommand bs with
    | .ok _ => .command bs
    | .reject _ => .chunk bs

/-- The instruction the decoder reads from an opcode-table word. -/
def decodeTableWord (nbits w : Nat) : Option Instr :=
  match decode (layTableWord nbits w) with
  | .ok i => some i
  | .reject _ => none

end Sys2Proof
end

