-- ==== Sys2Proof/Machine/Ports.lean ====
section
/-! DEFINITION. Sys2Proof/Machine/Ports.lean: what passes the ports of 00_scope.md R8: the exceptions (60_exceptions.md
R210) and answers (30_encoding.md R81) of the OP port, the view of the ST port (10_state.md R33), and the channel's
answers and the transactions of the CH and DLY ports (20_memory.md R50 to R59; R13 for the trace). -/

namespace Sys2Proof.Machine

/-- The sub-reasons of InvalidArgument, labels for diagnostics (43_transmit.md R170). -/
inductive ArgReason where
  | tooShort
  | oddLength
  | tooLong
deriving DecidableEq, Repr

/-- The closed list of exceptions, with the values they carry (R210). -/
inductive Exn where
  | firmwareVersionError (hw fw : Nat)
  | invalidArgument (why : ArgReason)
  | writeCountMismatch (wsum clen : Nat)
  | irTransmitError (flag : Byte)
  | channelFault (info : FaultInfo)
  | versionParseFault (v : List Byte)
  | notReady
  | illegalOperation
  | reportParseFault (r : List Byte)
deriving DecidableEq, Repr

/-- The numeric codes of R210, for tables only. -/
def Exn.code : Exn → Nat
  | .firmwareVersionError _ _ => 1
  | .invalidArgument _ => 2
  | .writeCountMismatch _ _ => 3
  | .irTransmitError _ => 4
  | .channelFault _ => 5
  | .versionParseFault _ => 6
  | .notReady => 7
  | .illegalOperation => 8
  | .reportParseFault _ => 9

/-- The value of an `Ok` answer, by operation (R81). -/
inductive Value where
  /-- CONSTRUCT, RESET, SAMPLE, IRMODE: nothing -/
  | nothing
  /-- FWREV: (hardwareVersion, firmwareVersion) -/
  | version (hw fw : Nat)
  /-- RECEIVE: RBUF -/
  | bytes (bs : List Byte)
  /-- TRANSMIT: TransmitReport with byteCount and completionFlag -/
  | report (byteCount : Half) (completionFlag : Byte)
deriving DecidableEq, Repr

/-- The answer to a request (R81). -/
inductive Answer where
  | ok (v : Value)
  | fail (e : Exn)
deriving DecidableEq, Repr

/-- The channel's answer to one ChWrite or ChFlush: a count (a flush ignores it) or a fault (R51, R53, R54). -/
inductive OutAnswer where
  | done (n : Nat)
  | fault (info : FaultInfo)
deriving DecidableEq, Repr

/-- What arrives on the channel's reading side: a byte, or the failure of the read that meets it (R52, R54). -/
inductive InEvent where
  | byte (b : Byte)
  | fault (info : FaultInfo)
deriving DecidableEq, Repr

/-- One transaction on CH or DLY with the answer the other side gave (R13; the `!x` forms are those of
95_test_vectors.md). -/
inductive Event where
  | pause
  | flush
  | flushFault (info : FaultInfo)
  | write (bs : List Byte) (n : Nat)
  | writeFault (bs : List Byte) (info : FaultInfo)
  | read (k : Nat) (bs : List Byte)
  | readFault (k : Nat) (info : FaultInfo)
deriving DecidableEq, Repr

/-- What the host reads on the ST port: `none` is "no value" (R33). -/
structure Status where
  mode : Mode
  ready : Bool
  busy : Bool
  hs : Option Byte
  bc : Option Half
  cf : Option Byte
deriving DecidableEq, Repr

end Sys2Proof.Machine
end

