-- ==== Sys2Proof/Machine/Flags.lean ====
section
/-! DEFINITION. Sys2Proof/Machine/Flags.lean: the tests the sequencer makes: the completion flag (30_encoding.md R93) and
the frame-terminator detector (42_receive.md R151). PSM has no condition codes (10_state.md R35). -/

namespace Sys2Proof.Machine

/-- The success set of the completion flag is 'c' and 'C' (R93). -/
def completionOk (f : Byte) : Bool := f == 0x63 || f == 0x43

/-- `fire`, with RCNT the new value and PREV the old (R150, R151). -/
def terminatorFires (rcnt : Nat) (prev b : Byte) : Bool :=
  decide (Config.termMinCount ≤ rcnt) && b == Config.sentinelByte && prev == Config.sentinelByte

/-- The firmware version is below FW_MIN (40_version_construct.md R113). -/
def firmwareTooOld (fw : Nat) : Bool := decide (fw < Config.fwMin)

/-- RBUF holds RBUF_MAX bytes already (92_eei_decisions.md D23). -/
def receiveFull (cfg : Config) (rbuf : List Byte) : Bool :=
  match cfg.rbufMax with
  | none => false
  | some m => decide (m ≤ rbuf.length)

end Sys2Proof.Machine
end

