-- ==== Sys2Proof/Machine/Operands.lean ====
section
/-! DEFINITION. Sys2Proof/Machine/Operands.lean: operand validation and assembly: TRANSMIT's operand (43_transmit.md
R170), the version response (30_encoding.md R87), the count of the transmit report (R92) and the chunk slice
(20_memory.md R70). -/

namespace Sys2Proof.Machine

/-- `s[i]`; every use is at an index below the length. -/
def byteAt (bs : List Byte) (i : Nat) : Byte := bs.getD i 0

/-- `code[len-2] = 0xFF and code[len-1] = 0xFF` (R170). -/
def endsInSentinel (code : List Byte) : Bool :=
  decide (2 ≤ code.length) && byteAt code (code.length - 2) == Config.sentinelByte
    && byteAt code (code.length - 1) == Config.sentinelByte

/-- The sentinel adjustment: CBUF is the operand, with 0xFF 0xFF appended where it does not end in them (R170). -/
def adjustCode (code : List Byte) : List Byte :=
  if endsInSentinel code then code else code ++ [Config.sentinelByte, Config.sentinelByte]

/-- The adjusted code is longer than MAX_CODE_LEN (R170; R6 and D23 speak of the operand: DEDUCED, log 21). -/
def tooLong (cfg : Config) (cbuf : List Byte) : Bool :=
  match cfg.maxCodeLen with
  | none => false
  | some m => decide (m < cbuf.length)

/-- TRANSMIT's operand check, in the order of R170 and R220 a: TooShort, OddLength, TooLong. `none`: accepted. -/
def checkCode (cfg : Config) (code : List Byte) : Option ArgReason :=
  if code.length < 2 then some .tooShort
  else if code.length % 2 ≠ 0 then some .oddLength
  else if tooLong cfg (adjustCode code) then some .tooLong
  else none

/-- `digit(b)`: defined for the bytes 0x30 to 0x39 only (R87, R98). -/
def digit (b : Byte) : Option Nat :=
  if 0x30 ≤ b.toNat ∧ b.toNat ≤ 0x39 then some (b.toNat - 0x30) else none

/-- The parse of the version response: v[0] is never examined, v[1] is hw, v[2] and v[3] are fw's tens and units
(R87). `none`: a byte is not a digit. -/
def parseVersion (v : List Byte) : Option (Nat × Nat) :=
  match digit (byteAt v 1), digit (byteAt v 2), digit (byteAt v 3) with
  | some hw, some tens, some units => some (hw, 10 * tens + units)
  | _, _, _ => none

/-- `hexval(b)`: '0'..'9', 'A'..'F', 'a'..'f' (R92; code points: 93_implementation_defined.md G1, log 16). -/
def hexval (b : Byte) : Option Nat :=
  if 0x30 ≤ b.toNat ∧ b.toNat ≤ 0x39 then some (b.toNat - 0x30)
  else if 0x41 ≤ b.toNat ∧ b.toNat ≤ 0x46 then some (b.toNat - 0x41 + 10)
  else if 0x61 ≤ b.toNat ∧ b.toNat ≤ 0x66 then some (b.toNat - 0x61 + 10)
  else none

/-- The count decode under either value of COUNT_DECODE (R92). `none`: under asciihex2, not two hex digits. -/
def decodeCount (m : CountDecode) (r1 r2 : Byte) : Option Half :=
  match m with
  | .raw16be => some (BitVec.ofNat 16 (256 * r1.toNat + r2.toNat))
  | .asciihex2 =>
    match hexval r1, hexval r2 with
    | some a, some b => some (BitVec.ofNat 16 (16 * a + b))
    | _, _ => none

/-- `CBUF[CIDX : min(CIDX + 32, CLEN)]` (R70). -/
def chunkAt (cbuf : List Byte) (clen cidx : Nat) : List Byte :=
  (cbuf.drop cidx).take (min (cidx + Config.chunkMax) clen - cidx)

end Sys2Proof.Machine
end

