-- ==== Sys2Proof/Machine/Pos.lean ====
section
/-! DEFINITION. Sys2Proof/Machine/Pos.lean: SEQ's values, the 74 sequencer positions of 10_state.md R26, in the shape
of its grammar: a prefix (the context) around a suffix (the place in an in-line sub-sequence). -/

namespace Sys2Proof.Machine

/-- `<rst>`: the positions of the reset sub-sequence (41_mode_transitions.md R130). -/
inductive Rst where
  | p1
  | w
  | p2
deriving DecidableEq, Repr

/-- `<smp>`: the positions of the sampling sub-sequence (R131). -/
inductive Smp where
  | rst (r : Rst)
  | w
  | p1
  | r
  | p2
deriving DecidableEq, Repr

/-- `<fwr>`: the positions of the version query (40_version_construct.md R111). -/
inductive Fwr where
  | rst (r : Rst)
  | w
  | p
  | r
deriving DecidableEq, Repr

/-- SEQ's values (R26). -/
inductive Pos where
  | rest
  | conF
  | conFwr (f : Fwr)
  | conSmp (m : Smp)
  | fwr (f : Fwr)
  | rst (r : Rst)
  | smp (m : Smp)
  | irmRst (r : Rst)
  | irmW
  | irmP
  | rcvP1
  | rcvSmp (m : Smp)
  | rcvR
  | rcvP2
  | txP1
  | txW26
  | txW25
  | txW03
  | txRH
  | txP2
  | txWC
  | txRC
  | txP3
  | txR3
  | txR1
  | txSmp (m : Smp)
  | txRecRst (r : Rst)
  | txRecSmp (m : Smp)
deriving DecidableEq, Repr

/-- The positions of a sub-sequence, in order. -/
def Rst.all : List Rst := [.p1, .w, .p2]
def Smp.all : List Smp := List.map Smp.rst Rst.all ++ [.w, .p1, .r, .p2]
def Fwr.all : List Fwr := List.map Fwr.rst Rst.all ++ [.w, .p, .r]

/-- Every value of SEQ, in the grammar's order (R26 counts 74). -/
def Pos.all : List Pos :=
  List.flatten
    [[Pos.rest, Pos.conF], List.map Pos.conFwr Fwr.all, List.map Pos.conSmp Smp.all, List.map Pos.fwr Fwr.all,
      List.map Pos.rst Rst.all, List.map Pos.smp Smp.all, List.map Pos.irmRst Rst.all,
      [Pos.irmW, Pos.irmP, Pos.rcvP1], List.map Pos.rcvSmp Smp.all,
      [Pos.rcvR, Pos.rcvP2, Pos.txP1, Pos.txW26, Pos.txW25, Pos.txW03, Pos.txRH, Pos.txP2, Pos.txWC, Pos.txRC,
        Pos.txP3, Pos.txR3, Pos.txR1],
      List.map Pos.txSmp Smp.all, List.map Pos.txRecRst Rst.all, List.map Pos.txRecSmp Smp.all]

end Sys2Proof.Machine
end

