-- ==== Sys2Proof/Machine/State.lean ====
section
/-! DEFINITION. Sys2Proof/Machine/State.lean: the state of PSM as 10_state.md R20 lists it, with the model's own carriers
of the parameters and of the four ports (log 1, 4, 7, 9, 11), the state after hardware reset (R37), and the reasons the
model stops. -/

namespace Sys2Proof.Machine

structure State where
  /-- the parameters, fixed for a run (00_scope.md R6; log 9) -/
  cfg : Config
  /-- MODE (10_state.md R21) -/
  mode : Mode
  /-- READY (R22) -/
  ready : Bool
  /-- HS (R23) -/
  hs : Byte
  /-- HSV, the valid bit of HS (R23) -/
  hsv : Bool
  /-- BC (R24) -/
  bc : Half
  /-- BCV, the valid bit of BC (R24) -/
  bcv : Bool
  /-- CF (R25) -/
  cf : Byte
  /-- CFV, the valid bit of CF (R25) -/
  cfv : Bool
  /-- SEQ, the sequencer position (R26) -/
  seq : Pos
  /-- CBUF, the code buffer (R29) -/
  cbuf : List Byte
  /-- CLEN (R29) -/
  clen : Nat
  /-- CIDX (R30) -/
  cidx : Nat
  /-- WSUM (R30) -/
  wsum : Nat
  /-- PEND, the pending-exception latch (R31) -/
  pend : Option Exn
  /-- RBUF, the receive buffer (R32) -/
  rbuf : List Byte
  /-- RCNT (R32) -/
  rcnt : Nat
  /-- PREV (R32) -/
  prev : Byte
  /-- VBUF, the four bytes of the version response (R20, R32; log 20) -/
  vbuf : List Byte
  /-- OP port, in: the requests the host will make, taken one at a time at REST (30_encoding.md R80; log 4) -/
  opIn : List Request
  /-- OP port, out: the answers delivered so far, oldest first (R81; log 11) -/
  answers : List Answer
  /-- CH port: the channel's answers to the coming writes and flushes (20_memory.md R57; log 1) -/
  outAns : List OutAnswer
  /-- CH port: what the channel will deliver to reads (R57; log 1) -/
  inEvents : List InEvent
  /-- CH and DLY ports: the transactions so far, oldest first (00_scope.md R13; log 11) -/
  trace : List Event
  /-- hardware reset, in: each entry is the number of steps before the next assertion (70_reset_and_hazards.md R241; log 7) -/
  rstIn : List Nat
deriving DecidableEq, Repr

/-- Right after hardware reset (R37, R240). MODE, READY, the valid bits, SEQ and PEND are the spec's. DESIGN CHOICE
(log 8): HS, BC, CF, CBUF, CLEN, CIDX, WSUM, RBUF, RCNT, PREV and VBUF, which the spec leaves unspecified, are zero or
empty. Log 9: the parameters are the spec's defaults. -/
def State.reset : State :=
  { cfg := Config.default
    mode := .idle, ready := false
    hs := 0, hsv := false, bc := 0, bcv := false, cf := 0, cfv := false
    seq := .rest
    cbuf := [], clen := 0, cidx := 0, wsum := 0, pend := none
    rbuf := [], rcnt := 0, prev := 0, vbuf := [0, 0, 0, 0]
    opIn := [], answers := [], outAns := [], inEvents := [], trace := [], rstIn := [] }

/-- The machine stops with a fault. The spec's own failures are answers on OP (Exn), not these: these two stand for
states no run from reset reaches, in which the spec gives the sequencer no transaction or no answer (log 19). -/
inductive Fault where
  /-- Raised by DATA at TX.WC when CIDX ≥ CLEN: there is no ChWrite of no bytes (20_memory.md R51). Safe: unreachable. -/
  | emptyChunk
  /-- Raised by the last pause of recovery when PEND is empty: there is no failure to deliver (60_exceptions.md R217).
  Safe: unreachable. -/
  | recoveryWithoutPending
deriving DecidableEq, Repr

/-- The model gives no meaning. -/
inductive Refusal where
  /-- Raised by an arm of exec for an instruction without a meaning; no arm is one now. Safe. -/
  | notModelled (mnemonic : String)
  /-- Raised by a host operation at SEQ ≠ REST: the host has no such move (30_encoding.md R83; log 5). Safe. -/
  | requestWhileBusy
  /-- Raised by a wire command at a SEQ position that does not issue it: PSM writes nothing else (R85, R95; log 6). Safe. -/
  | commandOutOfPlace
  /-- Raised at RCV.R when RBUF holds RBUF_MAX bytes: a model must refuse such a run (92_eei_decisions.md D23; log 17). Safe. -/
  | receiveBufferOverflow
  /-- Raised by step when the decoder rejects the fetched word for a reason other than an empty chunk; no position
  fetches such a word. Safe. -/
  | undecodable
deriving DecidableEq, Repr

/-- One step's outcome. -/
abbrev Out := Host.Outcome State Fault Refusal

end Sys2Proof.Machine
end

