-- ==== Sys2Proof/Machine/Positions.lean ====
section
/-! DEFINITION. Sys2Proof/Machine/Positions.lean: the position tables of 40_version_construct.md R111, R113,
41_mode_transitions.md R130 to R132, 42_receive.md R150 and 43_transmit.md R171: the micro-operation of a position, its
next position, the MODE it assigns, and where a failure at it goes. -/

namespace Sys2Proof.Machine

/-- The micro-operation of a position (00_scope.md R11). At REST there is none: PSM waits for a request (R27). -/
inductive Micro where
  | wait
  | pause
  | flush
  | command (c : Instr)
  | chunk
  | read (k : Nat)
deriving DecidableEq, Repr

/-- R130's table, micro-operation column. -/
def Rst.micro : Rst → Micro
  | .p1 => .pause
  | .w => .command .cmdReset
  | .p2 => .pause

/-- R131's table. -/
def Smp.micro : Smp → Micro
  | .rst q => q.micro
  | .w => .command .cmdSample
  | .p1 => .pause
  | .r => .read Config.protoRespLen
  | .p2 => .pause

/-- R111's table. -/
def Fwr.micro : Fwr → Micro
  | .rst q => q.micro
  | .w => .command .cmdVersion
  | .p => .pause
  | .r => .read Config.versionRespLen

/-- The micro-operation of every position. -/
def Pos.micro : Pos → Micro
  | .rest => .wait
  | .conF => .flush
  | .conFwr f => f.micro
  | .conSmp m => m.micro
  | .fwr f => f.micro
  | .rst q => q.micro
  | .smp m => m.micro
  | .irmRst r => r.micro
  | .irmW => .command .cmdIr
  | .irmP => .pause
  | .rcvP1 => .pause
  | .rcvSmp m => m.micro
  | .rcvR => .read 1
  | .rcvP2 => .pause
  | .txP1 => .pause
  | .txW26 => .command .cmdTxHandshake
  | .txW25 => .command .cmdTxNotify
  | .txW03 => .command .cmdTxStart
  | .txRH => .read 1
  | .txP2 => .pause
  | .txWC => .chunk
  | .txRC => .read 1
  | .txP3 => .pause
  | .txR3 => .read Config.reportHeadLen
  | .txR1 => .read 1
  | .txSmp m => m.micro
  | .txRecRst r => r.micro
  | .txRecSmp m => m.micro

/-- R130's table, next column, under the prefix `x` and with the position that follows the sub-sequence. -/
def Rst.next (x : Rst → Pos) (after : Pos) : Rst → Pos
  | .p1 => x .w
  | .w => x .p2
  | .p2 => after

/-- R131's table, next column. -/
def Smp.next (x : Smp → Pos) (after : Pos) : Smp → Pos
  | .rst q => q.next (fun y => x (.rst y)) (x .w)
  | .w => x .p1
  | .p1 => x .r
  | .r => x .p2
  | .p2 => after

/-- R111's table, next column. -/
def Fwr.next (x : Fwr → Pos) (after : Pos) : Fwr → Pos
  | .rst q => q.next (fun y => x (.rst y)) (x .w)
  | .w => x .p
  | .p => x .r
  | .r => after

/-- The next position when the micro-operation completes and no check intervenes. Where the table's next is decided
by a check (RCV.R, TX.RC, TX.R1, the version reads) this is the one that goes on: RCV.R to itself (R150), TX.RC to the
next chunk (R177), TX.R1 to the closing sampling entry (R179), CON.FWR.R to the sampling entry (R113). -/
def Pos.next : Pos → Pos
  | .rest => .rest
  | .conF => .conFwr (.rst .p1)
  | .conFwr f => f.next .conFwr (.conSmp (.rst .p1))
  | .conSmp m => m.next .conSmp .rest
  | .fwr f => f.next .fwr .rest
  | .rst q => q.next .rst .rest
  | .smp m => m.next .smp .rest
  | .irmRst r => r.next .irmRst .irmW
  | .irmW => .irmP
  | .irmP => .rest
  | .rcvP1 => .rcvSmp (.rst .p1)
  | .rcvSmp m => m.next .rcvSmp .rcvR
  | .rcvR => .rcvR
  | .rcvP2 => .rest
  | .txP1 => .txW26
  | .txW26 => .txW25
  | .txW25 => .txW03
  | .txW03 => .txRH
  | .txRH => .txP2
  | .txP2 => .txWC
  | .txWC => .txRC
  | .txRC => .txWC
  | .txP3 => .txR3
  | .txR3 => .txR1
  | .txR1 => .txSmp (.rst .p1)
  | .txSmp m => m.next .txSmp .rest
  | .txRecRst r => r.next .txRecRst (.txRecSmp (.rst .p1))
  | .txRecSmp m => m.next .txRecSmp .rest

/-- MODE <- Idle in the step in which the five zero bytes are written (R130). -/
def Rst.sets : Rst → Option Mode
  | .w => some .idle
  | .p1 => none
  | .p2 => none

/-- MODE <- Sampling when the last pause completes (R131). -/
def Smp.sets : Smp → Option Mode
  | .rst q => q.sets
  | .p2 => some .sampling
  | .w => none
  | .p1 => none
  | .r => none

/-- The version query's only assignment is its in-line reset's (R111). -/
def Fwr.sets : Fwr → Option Mode
  | .rst q => q.sets
  | .w => none
  | .p => none
  | .r => none

/-- The value the completion of a position assigns to MODE: the transition table of R133. -/
def Pos.sets (cfg : Config) : Pos → Option Mode
  | .conFwr f => f.sets
  | .conSmp m => m.sets
  | .fwr f => f.sets
  | .rst q => q.sets
  | .smp m => m.sets
  | .irmRst r => r.sets
  | .irmP => some cfg.irModeResult
  | .rcvSmp m => m.sets
  | .txRH => some .transmit
  | .txSmp m => m.sets
  | .txRecRst r => r.sets
  | .txRecSmp m => m.sets
  | .rest | .conF | .irmW | .rcvP1 | .rcvR | .rcvP2 | .txP1 | .txW26 | .txW25 | .txW03 | .txP2 | .txWC | .txRC
  | .txP3 | .txR3 | .txR1 => none

/-- How a failure at a position acts. -/
inductive Region where
  /-- the operation aborts (60_exceptions.md R215); at REST, the request is refused (30_encoding.md R82) -/
  | plain
  /-- TRANSMIT's protected section: recovery is entered (R216) -/
  | guarded
  /-- inside recovery: recovery is abandoned (R219) -/
  | recovery
deriving DecidableEq, Repr

/-- The protected section is exactly the eleven positions of 43_transmit.md R182; recovery is TX.REC.* (R181). -/
def Pos.region : Pos → Region
  | .txP1 | .txW26 | .txW25 | .txW03 | .txRH | .txP2 | .txWC | .txRC | .txP3 | .txR3 | .txR1 => .guarded
  | .txRecRst _ | .txRecSmp _ => .recovery
  | .rest | .conF | .conFwr _ | .conSmp _ | .fwr _ | .rst _ | .smp _ | .irmRst _ | .irmW | .irmP | .rcvP1 | .rcvSmp _
  | .rcvR | .rcvP2 | .txSmp _ => .plain

end Sys2Proof.Machine
end

