-- ==== Sys2Proof/Machine/Ops.lean ====
section
/-! DEFINITION. Sys2Proof/Machine/Ops.lean: the named operations the meanings share: the ST view, delivery of an answer,
taking a failure and returning from recovery, hardware reset, the three CH transactions and the pause, and the buffers. -/

namespace Sys2Proof.Machine

/-- BUSY = 1 exactly when SEQ ≠ REST (10_state.md R28). -/
def State.busy (s : State) : Bool := decide (s.seq ≠ .rest)

/-- The ST port's view: a register whose valid bit is 0 shows "no value" (R33). -/
def State.status (s : State) : Status :=
  { mode := s.mode, ready := s.ready, busy := s.busy
    hs := if s.hsv then some s.hs else none
    bc := if s.bcv then some s.bc else none
    cf := if s.cfv then some s.cf else none }

/-- The two length registers agree with their buffers: the form of the two private memories (R29, R32). -/
abbrev Memory.wf (s : State) : Prop := s.clen = s.cbuf.length ∧ s.rcnt = s.rbuf.length

/-- A transaction has been performed (00_scope.md R13). -/
def State.log (s : State) (e : Event) : State := { s with trace := s.trace ++ [e] }

/-- The request at the head of the OP port is taken (30_encoding.md R82). -/
def State.takeRequest (s : State) : State := { s with opIn := s.opIn.tail }

/-- SEQ returns to REST and the answer is delivered, in one step (R81). The spec calls CBUF, CLEN, CIDX, WSUM, RBUF, RCNT, PREV
and VBUF meaningless at rest (10_state.md R29, R30, R32) and gives them no value there: DESIGN CHOICE (log 22; VBUF log 20), they
keep their last values. -/
def State.finish (s : State) (a : Answer) : State := { s with seq := .rest, answers := s.answers ++ [a] }

/-- The position's own MODE assignment (41_mode_transitions.md R133), if it has one. -/
def State.assignMode (s : State) : State := { s with mode := (s.seq.sets s.cfg).getD s.mode }

/-- The micro-operation completes: the listed MODE assignment takes effect and SEQ moves on, in one step (R27 a). -/
def State.advance (s : State) : State := { s.assignMode with seq := s.seq.next }

/-- CBUF and CLEN are loaded (43_transmit.md R170). -/
def State.loadCode (s : State) (cbuf : List Byte) : State := { s with cbuf := cbuf, clen := cbuf.length }

/-- RBUF <- []; RCNT <- 0 (42_receive.md R150). PREV, which then holds no value (10_state.md R32), is kept: log 22. -/
def State.clearReceived (s : State) : State := { s with rbuf := [], rcnt := 0 }

/-- RBUF.append(b); RCNT <- RCNT + 1; PREV <- b (R150). -/
def State.appendReceived (s : State) (b : Byte) : State :=
  { s with rbuf := s.rbuf ++ [b], rcnt := s.rcnt + 1, prev := b }

/-- The bytes TX.WC writes (20_memory.md R70). -/
def State.chunk (s : State) : List Byte := chunkAt s.cbuf s.clen s.cidx

/-- TAKING A FAILURE. In TRANSMIT's protected section: PEND <- the exception, SEQ <- TX.REC.RST.P1, nothing else
(60_exceptions.md R216). In recovery: recovery is abandoned, PEND is emptied and the new failure is the answer (R219).
Elsewhere: the operation aborts with the failure as its answer (R215); at REST, the request is refused with it (R82). R215
drops transient state and gives it no value: DESIGN CHOICE (log 22), it keeps its last values, as after R219's abort. -/
def raise (e : Exn) (s : State) : State :=
  match s.seq.region with
  | .guarded => { s with pend := some e, seq := .txRecRst .p1 }
  | .recovery => { s with pend := none }.finish (.fail e)
  | .plain => s.finish (.fail e)

/-- RETURN FROM RECOVERY: MODE <- Sampling (the position's assignment), the answer is Fail(PEND), PEND <- empty,
SEQ <- REST (60_exceptions.md R217). -/
def returnFromRecovery (s : State) : Out :=
  match s.pend with
  | some e => .next ({ s.assignMode with pend := none }.finish (.fail e))
  | none => .fault .recoveryWithoutPending

/-- HARDWARE RESET: every register takes its reset value; no answer is delivered, nothing is sent, and what waits at
the ports stays there (70_reset_and_hazards.md R240, R241, R249). -/
def State.hardwareReset (s : State) : State :=
  { State.reset with
    cfg := s.cfg, opIn := s.opIn, answers := s.answers, outAns := s.outAns, inEvents := s.inEvents, trace := s.trace,
    rstIn := s.rstIn }

/-- `n <- ChWrite(bs)`: no answer yet, PSM waits where it is; a count, `done` goes on with it; a fault is taken at this
position (20_memory.md R51, R54; log 2). -/
def chWrite (bs : List Byte) (done : Nat → State → Out) (s : State) : Out :=
  match s.outAns with
  | [] => .next s
  | .done n :: rest => done n ({ s with outAns := rest }.log (.write bs n))
  | .fault x :: rest => .next (raise (.channelFault x) ({ s with outAns := rest }.log (.writeFault bs x)))

/-- `ChFlush()` (R53). -/
def chFlush (done : State → Out) (s : State) : Out :=
  match s.outAns with
  | [] => .next s
  | .done _ :: rest => done ({ s with outAns := rest }.log .flush)
  | .fault x :: rest => .next (raise (.channelFault x) ({ s with outAns := rest }.log (.flushFault x)))

/-- How far the channel's deliveries take a read of `k` bytes. -/
inductive Taken where
  /-- all `k` bytes, in arrival order, and what is left -/
  | got (bs : List Byte) (rest : List InEvent)
  /-- the read fails; what is left after the fault (log 12) -/
  | faulted (info : FaultInfo) (rest : List InEvent)
  /-- fewer than `k` bytes yet -/
  | waiting
deriving DecidableEq, Repr

/-- Exactly `k` bytes in arrival order, or the fault that comes before the `k`-th (R52, R54). -/
def takeBytes : Nat → List InEvent → Taken
  | 0, es => .got [] es
  | _ + 1, [] => .waiting
  | _ + 1, .fault x :: es => .faulted x es
  | k + 1, .byte b :: es =>
    match takeBytes k es with
    | .got bs rest => .got (b :: bs) rest
    | .faulted x rest => .faulted x rest
    | .waiting => .waiting

/-- `bs <- ChRead(k)`: unsatisfied, PSM stays where it is (R52, 60_exceptions.md R221; log 2). -/
def chRead (k : Nat) (done : List Byte → State → Out) (s : State) : Out :=
  match takeBytes k s.inEvents with
  | .waiting => .next s
  | .got bs rest => done bs ({ s with inEvents := rest }.log (.read k bs))
  | .faulted x rest => .next (raise (.channelFault x) ({ s with inEvents := rest }.log (.readFault k x)))

/-- A host operation takes the request at SEQ = REST; while BUSY the host has no such move (30_encoding.md R83; log 5). -/
def atRest (accept : State → Out) (s : State) : Out :=
  if s.seq = .rest then accept s.takeRequest else .refused .requestWhileBusy

/-- The READY check of acceptance (R82 (2); 10_state.md R22). -/
def ifReady (accept : State → Out) (s : State) : Out :=
  if s.ready then accept s else .next (raise .notReady s)

/-- An operation with no further acceptance work: SEQ <- its first position (R82 (4)). -/
def begin (first : Pos) (s : State) : Out := .next { s with seq := first }

/-- A command's one ChWrite, at a position that issues it; the count is discarded (20_memory.md R51) and the position
completes. Elsewhere PSM does not write it (30_encoding.md R85; log 6). -/
def emitCommand (c : Instr) (s : State) : Out :=
  if s.seq.micro = .command c then chWrite c.wireBytes (fun _ t => .next t.advance) s
  else .refused .commandOutOfPlace

end Sys2Proof.Machine
end

