-- ==== Sys2Proof/Machine/ModeOps.lean ====
section
/-! DEFINITION. Sys2Proof/Machine/ModeOps.lean: the mode-transition family (41_mode_transitions.md): RESET, SAMPLE, IRMODE and
the wire commands CMD_RESET, CMD_SAMPLE, CMD_IR; and the refused host value op = 7. -/

namespace Sys2Proof.Machine

/-- RESET (R130), accepted: SEQ <- RST.P1. -/
def execReset (s : State) : Out := atRest (ifReady (begin (.rst .p1))) s

/-- SAMPLE (R131), accepted: SEQ <- SMP.RST.P1. -/
def execSample (s : State) : Out := atRest (ifReady (begin (.smp (.rst .p1)))) s

/-- IRMODE (R132), accepted: SEQ <- IRM.RST.P1. -/
def execIrmode (s : State) : Out := atRest (ifReady (begin (.irmRst .p1))) s

/-- op = 7 (30_encoding.md R82 (1), R94): Fail(IllegalOperation), before the READY check, and no other effect. -/
def execIllegal (s : State) : Out := atRest (fun t => .next (raise .illegalOperation t)) s

/-- CMD_RESET: one ChWrite of five zero bytes; MODE <- Idle in the step in which it completes (R130). -/
def execCmdReset (s : State) : Out := emitCommand .cmdReset s

/-- CMD_SAMPLE: one ChWrite of 'S' (R131). -/
def execCmdSample (s : State) : Out := emitCommand .cmdSample s

/-- CMD_IR: one ChWrite of "IR" (R132). -/
def execCmdIr (s : State) : Out := emitCommand .cmdIr s

end Sys2Proof.Machine
end

