-- ==== Sys2Proof/Machine/Receive.lean ====
section
/-! DEFINITION. Sys2Proof/Machine/Receive.lean: RECEIVE and the frame-terminator detector (42_receive.md). -/

namespace Sys2Proof.Machine

/-- RECEIVE (R150), accepted: RBUF <- [], RCNT <- 0, SEQ <- RCV.P1. -/
def execReceive (s : State) : Out := atRest (ifReady fun t => begin .rcvP1 t.clearReceived) s

/-- RCV.R completes with byte `b` (R150): append, count, and the detector, with RCNT the new value and PREV the old.
With RBUF_MAX set and reached the run is refused (log 17). -/
def receiveReadDone (bs : List Byte) (s : State) : Out :=
  let b := byteAt bs 0
  if receiveFull s.cfg s.rbuf then .refused .receiveBufferOverflow
  else if terminatorFires (s.rcnt + 1) s.prev b then .next { s.appendReceived b with seq := .rcvP2 }
  else .next { s.appendReceived b with seq := .rcvR }

/-- RCV.P2 completes (R150): the answer is Ok(RBUF). -/
def receiveDone (s : State) : Out := .next (s.finish (.ok (.bytes s.rbuf)))

end Sys2Proof.Machine
end

