-- ==== Sys2Proof/Machine/Transmit.lean ====
section
/-! DEFINITION. Sys2Proof/Machine/Transmit.lean: TRANSMIT (43_transmit.md): acceptance, the setup commands, the chunk write, and
the completions of its reads. -/

namespace Sys2Proof.Machine

/-- TRANSMIT (R170, R171): the operand check, or CBUF and CLEN loaded, PEND <- empty, SEQ <- TX.P1. -/
def execTransmit (code : List Byte) (s : State) : Out :=
  atRest (ifReady fun t =>
    match checkCode t.cfg code with
    | some why => .next (raise (.invalidArgument why) t)
    | none => begin .txP1 { t.loadCode (adjustCode code) with pend := none }) s

/-- CMD_TX_HANDSHAKE: one ChWrite of 0x26, no handshake check (R172). -/
def execCmdTxHandshake (s : State) : Out := emitCommand .cmdTxHandshake s

/-- CMD_TX_NOTIFY: one ChWrite of 0x25, no handshake check (R172). -/
def execCmdTxNotify (s : State) : Out := emitCommand .cmdTxNotify s

/-- CMD_TX_START: one ChWrite of 0x03; the handshake read follows (R173). -/
def execCmdTxStart (s : State) : Out := emitCommand .cmdTxStart s

/-- DATA: the chunk write at TX.WC, of the bytes CBUF[CIDX : min(CIDX+32, CLEN)] and no others (R175); the count, not
clipped, is added to WSUM (R176). -/
def execData (bytes : List Byte) (s : State) : Out :=
  if s.seq = .txWC ∧ bytes = s.chunk then
    if bytes = [] then .fault .emptyChunk
    else chWrite bytes (fun n t => .next { t with wsum := t.wsum + n }.advance) s
  else .refused .commandOutOfPlace

/-- TX.RH completes (R173): HS <- h, HSV <- 1, MODE <- Transmit. -/
def setupHandshakeDone (bs : List Byte) (s : State) : Out :=
  .next { s with hs := byteAt bs 0, hsv := true }.advance

/-- TX.P2 completes (R174): CIDX <- 0, WSUM <- 0. -/
def dataPhaseBegins (s : State) : Out := .next { s with cidx := 0, wsum := 0 }.advance

/-- TX.RC completes (R177): HS <- h, HSV <- 1, CIDX <- CIDX + 32; then the next chunk, the write-count check, or the
report. -/
def chunkHandshakeDone (bs : List Byte) (s : State) : Out :=
  let s := { s with hs := byteAt bs 0, hsv := true, cidx := s.cidx + Config.chunkMax }
  if s.cidx < s.clen then .next { s with seq := .txWC }
  else if s.wsum ≠ s.clen then .next (raise (.writeCountMismatch s.wsum s.clen) s)
  else .next { s with seq := .txP3 }

/-- TX.R3 completes (R178): r[0] is never examined, BC <- the decode of r[1], r[2], BCV <- 1. -/
def reportReadDone (r : List Byte) (s : State) : Out :=
  match decodeCount s.cfg.countDecode (byteAt r 1) (byteAt r 2) with
  | none => .next (raise (.reportParseFault r) s)
  | some n => .next { s with bc := n, bcv := true }.advance

/-- TX.R1 completes (R179): CF <- f, CFV <- 1, then the flag check. -/
def flagReadDone (bs : List Byte) (s : State) : Out :=
  let f := byteAt bs 0
  let s := { s with cf := f, cfv := true }
  if completionOk f then .next s.advance else .next (raise (.irTransmitError f) s)

/-- TX.SMP.P2 completes (R180): MODE <- Sampling, the answer Ok(TransmitReport). -/
def transmitDone (s : State) : Out := .next (s.assignMode.finish (.ok (.report s.bc s.cf)))

end Sys2Proof.Machine
end

