-- ==== Sys2Proof/Machine/Version.lean ====
section
/-! DEFINITION. Sys2Proof/Machine/Version.lean: the version family (40_version_construct.md): CONSTRUCT, FWREV, the wire command
CMD_VERSION, and the completion of the version read. -/

namespace Sys2Proof.Machine

/-- CONSTRUCT (R113), accepted at rest with READY 0 or 1: READY, HSV, BCV, CFV <- 0 and SEQ <- CON.F. A register whose valid
bit is 0 holds no value (10_state.md R23, D5): DESIGN CHOICE (log 23), HS, BC and CF keep their bits under the cleared valid
bit, where ST does not show them. -/
def execConstruct (s : State) : Out :=
  atRest (fun t => .next { t with ready := false, hsv := false, bcv := false, cfv := false, seq := .conF }) s

/-- FWREV (R111), accepted: SEQ <- FWR.RST.P1. -/
def execFwrev (s : State) : Out := atRest (ifReady (begin (.fwr (.rst .p1)))) s

/-- CMD_VERSION: one ChWrite of 'v' (R111). -/
def execCmdVersion (s : State) : Out := emitCommand .cmdVersion s

/-- X.R completes with the four bytes (R111): VBUF holds them (log 20); the parse, then, for FWREV, the answer. -/
def fwrevReadDone (v : List Byte) (s : State) : Out :=
  let s := { s with vbuf := v }
  match parseVersion v with
  | none => .next (raise (.versionParseFault v) s)
  | some (hw, fw) => .next (s.finish (.ok (.version hw fw)))

/-- CON.FWR.R completes (R113): the parse, the firmware floor, or on to the sampling entry. -/
def constructReadDone (v : List Byte) (s : State) : Out :=
  let s := { s with vbuf := v }
  match parseVersion v with
  | none => .next (raise (.versionParseFault v) s)
  | some (hw, fw) =>
    if firmwareTooOld fw then .next (raise (.firmwareVersionError hw fw) s) else .next s.advance

/-- CON.SMP.P2 completes (R113): MODE <- Sampling, READY <- 1, the answer Ok. -/
def constructDone (s : State) : Out := .next ({ s.assignMode with ready := true }.finish (.ok .nothing))

end Sys2Proof.Machine
end

