-- ==== Sys2Proof/Machine/Micro.lean ====
section
/-! DEFINITION. Sys2Proof/Machine/Micro.lean: the micro-operations that are no row of the opcode table (00_scope.md R11): Pause,
ChFlush, ChRead, and what the completion of each position's one does. -/

namespace Sys2Proof.Machine

/-- A position whose completion ends the operation with Ok and no value (RESET, SAMPLE, IRMODE). -/
def endsPlain (s : State) : Out := .next (s.assignMode.finish (.ok .nothing))

/-- The completion of a pause: the last pauses of the operations, TX.P2, and those that only move on. -/
def pauseDone (s : State) : Out :=
  match s.seq with
  | .rst .p2 => endsPlain s
  | .smp .p2 => endsPlain s
  | .irmP => endsPlain s
  | .conSmp .p2 => constructDone s
  | .rcvP2 => receiveDone s
  | .txP2 => dataPhaseBegins s
  | .txSmp .p2 => transmitDone s
  | .txRecSmp .p2 => returnFromRecovery s
  | _ => .next s.advance

/-- `Pause()`: it completes and cannot fail (20_memory.md R59). -/
def pauseStep (s : State) : Out := pauseDone (s.log .pause)

/-- `ChFlush()`, at CON.F (20_memory.md R53). -/
def flushStep (s : State) : Out := chFlush (fun t => .next t.advance) s

/-- The completion of a read. The sampling response is dropped (30_encoding.md R88). -/
def readDone (bs : List Byte) (s : State) : Out :=
  match s.seq with
  | .fwr .r => fwrevReadDone bs s
  | .conFwr .r => constructReadDone bs s
  | .rcvR => receiveReadDone bs s
  | .txRH => setupHandshakeDone bs s
  | .txRC => chunkHandshakeDone bs s
  | .txR3 => reportReadDone bs s
  | .txR1 => flagReadDone bs s
  | _ => .next s.advance

/-- `ChRead(k)` at the position SEQ names. -/
def readStep (k : Nat) (s : State) : Out := chRead k readDone s

end Sys2Proof.Machine
end

