-- ==== Sys2Proof/Machine/Dispatch.lean ====
section
/-! DEFINITION. Sys2Proof/Machine/Dispatch.lean: exec, one arm per instruction. -/

namespace Sys2Proof.Machine

def exec (i : Instr) (s : State) : Host.Outcome State Fault Refusal :=
  match i with
  | .construct => Sys2Proof.Machine.execConstruct s
  | .fwrev => Sys2Proof.Machine.execFwrev s
  | .reset => Sys2Proof.Machine.execReset s
  | .sample => Sys2Proof.Machine.execSample s
  | .irmode => Sys2Proof.Machine.execIrmode s
  | .receive => Sys2Proof.Machine.execReceive s
  | .transmit code => Sys2Proof.Machine.execTransmit code s
  | .illegal => Sys2Proof.Machine.execIllegal s
  | .cmdReset => Sys2Proof.Machine.execCmdReset s
  | .cmdVersion => Sys2Proof.Machine.execCmdVersion s
  | .cmdSample => Sys2Proof.Machine.execCmdSample s
  | .cmdIr => Sys2Proof.Machine.execCmdIr s
  | .cmdTxHandshake => Sys2Proof.Machine.execCmdTxHandshake s
  | .cmdTxNotify => Sys2Proof.Machine.execCmdTxNotify s
  | .cmdTxStart => Sys2Proof.Machine.execCmdTxStart s
  | .data bytes => Sys2Proof.Machine.execData bytes s

end Sys2Proof.Machine
end

