-- ==== Sys2Proof/Machine/Fetch.lean ====
section
/-! DEFINITION. Sys2Proof/Machine/Fetch.lean: what the sequencer fetches at SEQ: the host's request at REST (30_encoding.md R82),
the command string or the chunk at a writing position (R85); and how a word is put where the next step fetches. -/

namespace Sys2Proof.Machine

/-- The word at SEQ; none where there is no request yet or the micro-operation is a pause, a flush or a read. -/
def fetch (s : State) : Option FetchWord :=
  match s.seq.micro with
  | .wait => s.opIn.head?.map .request
  | .command c => some (encode c)
  | .chunk => some (.chunk s.chunk)
  | .pause => none
  | .flush => none
  | .read _ => none

/-- What step answers for a word that is no instruction. -/
def rejected : Reject → Out
  | .emptyChunk => .fault .emptyChunk
  | .unknownCommand => .refused .undecodable
  | .chunkTooLong => .refused .undecodable

/-- A position that issues a command string; the host operation's own where several do (R85). -/
def commandHome : Instr → Pos
  | .cmdVersion => .fwr .w
  | .cmdSample => .smp .w
  | .cmdIr => .irmW
  | .cmdTxHandshake => .txW26
  | .cmdTxNotify => .txW25
  | .cmdTxStart => .txW03
  | _ => .rst .w

/-- Put a word where the next step fetches it (log 14): a request at the head of the OP port, with SEQ at REST; a
command by standing SEQ at a position that issues it; a chunk by standing SEQ at TX.WC with the chunk as the code. A
write also gets the channel's answer to it, its full length; a hardware reset that is due is put off. -/
def place (s : State) : FetchWord → State
  | .request r => { s with seq := .rest, opIn := r :: s.opIn, rstIn := [] }
  | .command bs =>
    match decodeCommand bs with
    | .ok c => { s with seq := commandHome c, outAns := .done bs.length :: s.outAns, rstIn := [] }
    | .reject _ => s
  | .chunk bs =>
    { s.loadCode bs with seq := .txWC, cidx := 0, outAns := .done bs.length :: s.outAns, rstIn := [] }

/-- A micro-operation that is no table row; at REST with no request PSM performs nothing and waits (10_state.md R27;
log 3). -/
def microStep (s : State) : Out :=
  match s.seq.micro with
  | .pause => pauseStep s
  | .flush => flushStep s
  | .read k => readStep k s
  | .wait => .next s
  | .command _ => .next s
  | .chunk => .next s

/-- One step of the sequencer with no hardware reset (R27): the fetched word is decoded and executed; where there is
none to fetch, the position's own micro-operation is performed. -/
def stepSequencer (s : State) : Out :=
  match fetch s with
  | some w =>
    match decode w with
    | .ok i => exec i s
    | .reject r => rejected r
  | none => microStep s

/-- A hardware reset is asserted now (70_reset_and_hazards.md R241; log 7). -/
def State.resetDue (s : State) : Bool := decide (s.rstIn.head? = some 0)

/-- The steps left before the next assertion of hardware reset, one step later. -/
def countDown : List Nat → List Nat
  | [] => []
  | 0 :: rest => 0 :: rest
  | (n + 1) :: rest => n :: rest

/-- One step passes before the next assertion of hardware reset. -/
def State.tick (s : State) : State := { s with rstIn := countDown s.rstIn }

/-- The due assertion takes effect (R240, R241). -/
def State.acceptReset (s : State) : State := { s with rstIn := s.rstIn.tail }.hardwareReset

end Sys2Proof.Machine
end

