-- ==== Sys2Proof/Machine/Step.lean ====
section
/-! DEFINITION. Sys2Proof/Machine/Step.lean: one step of the machine (10_state.md R27; 70_reset_and_hazards.md R241), and
the place of an opcode-table word. -/

namespace Sys2Proof.Machine

/-- One step: a due hardware reset, or one micro-operation of the sequencer. -/
def step (s : State) : Host.Outcome State Fault Refusal :=
  if s.resetDue then .next s.acceptReset else stepSequencer s.tick

/-- The opcode-table word `w` of `nbits` bits put where the next step fetches it (log 14). -/
def State.withFetchWord (s : State) (nbits w : Nat) : State := place s (layTableWord nbits w)

end Sys2Proof.Machine
end

