-- ==== Sys2Proof/Safety.lean ====
section
/-! DEFINITION. Sys2Proof/Safety.lean: the terms the claims use: a run of steps, the detector as a function of the stream
(42_receive.md R151), the sites of the commands, the chunks of a code, and the invariant of the sequencer. -/

namespace Sys2Proof.Machine

/-- `k` steps, stopping at the first fault or refusal. -/
def run : Nat → State → Out
  | 0, s => .next s
  | k + 1, s =>
    match step s with
    | .next t => run k t
    | .fault r => .fault r
    | .refused r => .refused r

/-- The request op and operand encode this instruction (30_encoding.md R80, R94); a wire command has none. -/
def requestOf (i : Instr) : Option Request :=
  match encode i with
  | .request r => some r
  | .command _ => none
  | .chunk _ => none

/-- The stream stops a receive at `n` bytes: `n ≥ 3` and the bytes `n-2` and `n-1` are both 0xFF (R151). -/
abbrev stopsAt (bs : List Byte) (n : Nat) : Prop :=
  3 ≤ n ∧ n ≤ bs.length ∧ byteAt bs (n - 1) = 0xFF ∧ byteAt bs (n - 2) = 0xFF

/-- `n` is the least count at which the stream stops a receive (R151). -/
abbrev firstStopsAt (bs : List Byte) (n : Nat) : Prop := stopsAt bs n ∧ ∀ k < n, ¬ stopsAt bs k

/-- Every position that issues CMD_RESET (30_encoding.md R85, 41_mode_transitions.md R130) with the position that follows. -/
def resetSites : List (Pos × Pos) :=
  [(.rst .w, .rst .p2), (.fwr (.rst .w), .fwr (.rst .p2)), (.conFwr (.rst .w), .conFwr (.rst .p2)),
    (.smp (.rst .w), .smp (.rst .p2)), (.conSmp (.rst .w), .conSmp (.rst .p2)), (.irmRst .w, .irmRst .p2),
    (.rcvSmp (.rst .w), .rcvSmp (.rst .p2)), (.txSmp (.rst .w), .txSmp (.rst .p2)), (.txRecRst .w, .txRecRst .p2),
    (.txRecSmp (.rst .w), .txRecSmp (.rst .p2))]

/-- Every position that issues another command (R85, R111, R131, R132, R171), with the position that follows. -/
def otherSites : List (Instr × Pos × Pos) :=
  [(.cmdVersion, .fwr .w, .fwr .p), (.cmdVersion, .conFwr .w, .conFwr .p),
    (.cmdSample, .smp .w, .smp .p1), (.cmdSample, .conSmp .w, .conSmp .p1), (.cmdSample, .rcvSmp .w, .rcvSmp .p1),
    (.cmdSample, .txSmp .w, .txSmp .p1), (.cmdSample, .txRecSmp .w, .txRecSmp .p1),
    (.cmdIr, .irmW, .irmP),
    (.cmdTxHandshake, .txW26, .txW25), (.cmdTxNotify, .txW25, .txW03), (.cmdTxStart, .txW03, .txRH)]

/-- Every position that issues a command, with the command and the position that follows. -/
def commandSites : List (Instr × Pos × Pos) := resetSites.map (fun p => (Instr.cmdReset, p)) ++ otherSites

/-- Every position that reads, with the number of bytes (20_memory.md R55; these are the positions that can hang for want
of input, 60_exceptions.md R221). -/
def readSites : List (Pos × Nat) :=
  [(.fwr .r, 4), (.conFwr .r, 4), (.smp .r, 3), (.conSmp .r, 3), (.rcvSmp .r, 3), (.txSmp .r, 3), (.txRecSmp .r, 3),
    (.rcvR, 1), (.txRH, 1), (.txRC, 1), (.txR3, 3), (.txR1, 1)]

/-- Every read of the sampling response, with the position that follows (41_mode_transitions.md R131). -/
def sampleReadSites : List (Pos × Pos) :=
  [(.smp .r, .smp .p2), (.conSmp .r, .conSmp .p2), (.rcvSmp .r, .rcvSmp .p2), (.txSmp .r, .txSmp .p2),
    (.txRecSmp .r, .txRecSmp .p2)]

/-- The last pause of every sampling entry, where MODE <- Sampling (R131). -/
def sampleEnds : List Pos := [.smp .p2, .conSmp .p2, .rcvSmp .p2, .txSmp .p2, .txRecSmp .p2]

/-- The seven command strings (R85). -/
def commandStrings : List (Instr × List Byte) :=
  [(.cmdReset, [0x00, 0x00, 0x00, 0x00, 0x00]), (.cmdVersion, [0x76]), (.cmdSample, [0x53]), (.cmdIr, [0x49, 0x52]),
    (.cmdTxHandshake, [0x26]), (.cmdTxNotify, [0x25]), (.cmdTxStart, [0x03])]

/-- The eleven positions of TRANSMIT's protected section (43_transmit.md R182). -/
def guardedPositions : List Pos :=
  [.txP1, .txW26, .txW25, .txW03, .txRH, .txP2, .txWC, .txRC, .txP3, .txR3, .txR1]

/-- The positions of recovery, TX.REC.* (R181). -/
def recoveryPositions : List Pos :=
  [.txRecRst .p1, .txRecRst .w, .txRecRst .p2, .txRecSmp (.rst .p1), .txRecSmp (.rst .w), .txRecSmp (.rst .p2),
    .txRecSmp .w, .txRecSmp .p1, .txRecSmp .r, .txRecSmp .p2]

/-- The number of chunks of a code of `len` bytes, ceil(len / 32) (R175). -/
def chunkCount (len : Nat) : Nat := (len + 31) / 32

/-- Chunk `k` of a code: `CBUF[32k : min(32k + 32, CLEN)]` (R175). -/
def chunkOf (code : List Byte) (k : Nat) : List Byte := (code.drop (32 * k)).take 32

/-- The transactions of the data phase: every chunk in order, each followed by its handshake read, with the counts and
the handshake bytes the channel gives (R175, R177). -/
def dataPhaseTrace (code : List Byte) (answers : List (Nat × Byte)) : List Event :=
  ((List.range answers.length).zip answers).flatMap fun p =>
    [.write (chunkOf code p.1) p.2.1, .read 1 [p.2.2]]

/-- The transactions of the reset sequence with the count answered (R130). -/
def resetTrace (n : Nat) : List Event := [.pause, .write [0, 0, 0, 0, 0] n, .pause]

/-- The transactions of the sampling entry with the counts and bytes answered (R131). -/
def sampleTrace (n m : Nat) (q : List Byte) : List Event :=
  resetTrace n ++ [.write [0x53] m, .pause, .read 3 q, .pause]

/-- The transactions of the version query with the counts and bytes answered (R111). -/
def versionTrace (n m : Nat) (v : List Byte) : List Event := resetTrace n ++ [.write [0x76] m, .pause, .read 4 v]

/-- The bytes delivered, in order, by a channel that faults no read. -/
def delivers (bs : List Byte) : List InEvent := bs.map .byte

/-- No hardware reset is to come. -/
abbrev State.quiet (s : State) : Prop := s.rstIn = []

/-- No hardware reset is due at this step; a later one may be. -/
abbrev State.noResetDue (s : State) : Prop := s.rstIn.head? ≠ some 0

/-- The state with the transient registers set aside, which the spec calls meaningless at rest (10_state.md R29, R30, R32). -/
def State.persistent (s : State) : State :=
  { s with cbuf := [], clen := 0, cidx := 0, wsum := 0, rbuf := [], rcnt := 0, prev := 0, vbuf := [] }

/-- Two states at rest are the same but for the transient registers. -/
abbrev agreesAtRest (s t : State) : Prop := s.persistent = t.persistent

/-- The byte is the hex digit of value `a`: '0' to '9', 'A' to 'F', 'a' to 'f' (30_encoding.md R92). -/
abbrev hexDigit (b : Byte) (a : Nat) : Prop :=
  (a ≤ 9 ∧ b.toNat = 0x30 + a) ∨ (10 ≤ a ∧ a ≤ 15 ∧ (b.toNat = 0x41 + (a - 10) ∨ b.toNat = 0x61 + (a - 10)))

/-- The byte is below, between or above the three ranges of hex digits (R92). -/
abbrev noHexDigit (b : Byte) : Prop :=
  b.toNat < 0x30 ∨ (0x39 < b.toNat ∧ b.toNat < 0x41) ∨ (0x46 < b.toNat ∧ b.toNat < 0x61) ∨ 0x66 < b.toNat

/-- The chunk slice as R70 writes it, CBUF[CIDX : min(CIDX + 32, CLEN)]. -/
def State.slice (s : State) : List Byte := (s.cbuf.take (min (s.cidx + 32) s.clen)).drop s.cidx

/-- The CH transaction at SEQ returns ChannelFault(x) (20_memory.md R54); `u` is the state with the channel's answer taken
and the transaction in the trace, and nothing else changed. That a read has then consumed the bytes before its fault is the
model's choice, log 12. -/
def faultsWith (s : State) (x : FaultInfo) (u : State) : Prop :=
  (∃ c q bs rest, (c, s.seq, q) ∈ commandSites ∧ (c, bs) ∈ commandStrings ∧ s.outAns = .fault x :: rest ∧
    u = { s with outAns := rest, trace := s.trace ++ [.writeFault bs x] }) ∨
  (∃ rest, s.seq = .txWC ∧ s.slice ≠ [] ∧ s.outAns = .fault x :: rest ∧
    u = { s with outAns := rest, trace := s.trace ++ [.writeFault s.slice x] }) ∨
  (∃ rest, s.seq = .conF ∧ s.outAns = .fault x :: rest ∧
    u = { s with outAns := rest, trace := s.trace ++ [.flushFault x] }) ∨
  (∃ k bs rest, (s.seq, k) ∈ readSites ∧ bs.length < k ∧ s.inEvents = delivers bs ++ .fault x :: rest ∧
    u = { s with inEvents := rest, trace := s.trace ++ [.readFault k x] })

/-- The positions of CONSTRUCT. -/
def Pos.inConstruct : Pos → Bool
  | .conF | .conFwr _ | .conSmp _ => true
  | _ => false

/-- The MODE every run holds inside the reset sub-sequence, given the MODE held at its start. -/
def Rst.held (before : Option Mode) : Rst → Option Mode
  | .p1 => before
  | .w => before
  | .p2 => some .idle

/-- The same of the sampling sub-sequence: Idle from the reset write to the last pause (R131 corner case 5). -/
def Smp.held (before : Option Mode) : Smp → Option Mode
  | .rst q => q.held before
  | .w => some .idle
  | .p1 => some .idle
  | .r => some .idle
  | .p2 => some .idle

/-- The same of the version query. -/
def Fwr.held (before : Option Mode) : Fwr → Option Mode
  | .rst q => q.held before
  | .w => some .idle
  | .p => some .idle
  | .r => some .idle

/-- The MODE every run holds at a position, where the position determines it (R133, R134, R254). -/
def Pos.held : Pos → Option Mode
  | .conFwr f => f.held none
  | .conSmp m => m.held (some .idle)
  | .fwr f => f.held none
  | .rst q => q.held none
  | .smp m => m.held none
  | .irmRst q => q.held none
  | .irmW => some .idle
  | .irmP => some .idle
  | .rcvSmp m => m.held none
  | .rcvR => some .sampling
  | .rcvP2 => some .sampling
  | .txP2 => some .transmit
  | .txWC => some .transmit
  | .txRC => some .transmit
  | .txP3 => some .transmit
  | .txR3 => some .transmit
  | .txR1 => some .transmit
  | .txSmp m => m.held (some .transmit)
  | .txRecRst q => q.held none
  | .txRecSmp m => m.held (some .idle)
  | .rest | .conF | .rcvP1 | .txP1 | .txW26 | .txW25 | .txW03 | .txRH => none

/-- TRANSMIT's success path from the data phase on: the setup handshake is in HS (R173). -/
def Pos.afterHandshake : Pos → Bool
  | .txP2 | .txWC | .txRC | .txP3 | .txR3 | .txR1 | .txSmp _ => true
  | _ => false

/-- RECEIVE before its read loop (R150). -/
def Pos.beforeReceiveLoop : Pos → Bool
  | .rcvP1 | .rcvSmp _ => true
  | _ => false

/-- What holds of every state of the sequencer at rest and between two steps of an operation. -/
structure State.Inv (s : State) : Prop where
  /-- CLEN and RCNT are the lengths of CBUF and RBUF (10_state.md R29, R32). -/
  memory : Memory.wf s
  /-- PEND holds an exception exactly while recovery runs; it is empty at rest (R31). -/
  pending : s.pend.isSome = decide (s.seq.region = .recovery)
  /-- An operation other than CONSTRUCT runs only with READY = 1, and CONSTRUCT runs with READY = 0 (R22). -/
  ready : s.seq ≠ .rest → s.ready = !s.seq.inConstruct
  /-- Before a successful CONSTRUCT no data register has a value (R23 to R25, R113). -/
  unready : s.ready = false → s.hsv = false ∧ s.bcv = false ∧ s.cfv = false
  /-- A flag was reported only with a count, and a count only after a handshake (R173, R178, R179). -/
  reported : (s.cfv = true → s.bcv = true) ∧ (s.bcv = true → s.hsv = true)
  /-- In the protected section CBUF is an even code of 2 bytes or more that ends in the sentinel, within
  MAX_CODE_LEN (43_transmit.md R170). -/
  code : s.seq.region = .guarded →
    2 ≤ s.cbuf.length ∧ s.cbuf.length % 2 = 0 ∧ endsInSentinel s.cbuf = true ∧ tooLong s.cfg s.cbuf = false
  /-- In the chunk loop CIDX is a multiple of 32 below CLEN (10_state.md R30, 20_memory.md R62 b). -/
  chunking : s.seq = .txWC ∨ s.seq = .txRC → s.cidx < s.clen ∧ s.cidx % 32 = 0
  /-- The report is read only after the write count was right (43_transmit.md R177). -/
  counted : s.seq = .txP3 ∨ s.seq = .txR3 ∨ s.seq = .txR1 → s.wsum = s.clen
  /-- HS has a value from the setup handshake on (R173), BC from the report's head on (R178). -/
  handshaken : s.seq.afterHandshake = true → s.hsv = true
  counts : s.seq = .txR1 → s.bcv = true
  /-- The closing sampling entry runs only after a passing flag (R179, R180). -/
  success : ∀ m, s.seq = .txSmp m → s.cfv = true ∧ completionOk s.cf = true
  /-- RECEIVE starts its loop with an empty RBUF (42_receive.md R150). -/
  fresh : s.seq.beforeReceiveLoop = true → s.rbuf = []
  /-- In the read loop no terminator has been read, and PREV is the last byte (R151; 10_state.md R32). -/
  reading : s.seq = .rcvR → (∀ k ≤ s.rbuf.length, ¬ stopsAt s.rbuf k) ∧
    (s.rbuf ≠ [] → s.prev = byteAt s.rbuf (s.rbuf.length - 1))
  /-- After the loop RBUF ends at its first terminator (R151). -/
  received : s.seq = .rcvP2 → firstStopsAt s.rbuf s.rbuf.length
  /-- RBUF stays within RBUF_MAX (R32). -/
  capacity : ∀ m, s.cfg.rbufMax = some m → s.rbuf.length ≤ m
  /-- VBUF is four bytes (10_state.md R20). -/
  version : s.vbuf.length = 4
  /-- Under asciihex2 a reported count is at most 255 (10_state.md R24). -/
  count : s.cfg.countDecode = .asciihex2 → s.bcv = true → s.bc.toNat ≤ 255
  /-- MODE is what the last transition point set (41_mode_transitions.md R133). -/
  mode : ∀ m, s.seq.held = some m → s.mode = m

end Sys2Proof.Machine
end

