-- ==== Sys2Proof/Certificates/Slice0/Obligations.lean ====
section
/-! DEFINITION. Sys2Proof/Certificates/Slice0/Obligations.lean: the statements for the provers. Where a statement rests on a
choice the spec marks as its own (a [decision: ...]) or on a log entry of the model, its docstring says so. -/

open Sys2Proof Sys2Proof.Machine

/-! ### reset and the ports -/

/-- What hardware reset leaves (10_state.md section 9, the table of reset values; the spec's decision D6). Only the
values the spec states; the registers it leaves unspecified show "no value" on ST. -/
def Obligations.ResetLeavesTheStatedValues : Prop :=
  State.reset.mode = .idle ∧ State.reset.ready = false ∧ State.reset.hsv = false ∧ State.reset.bcv = false ∧
  State.reset.cfv = false ∧ State.reset.seq = .rest ∧ State.reset.pend = none ∧
  State.reset.status = { mode := .idle, ready := false, busy := false, hs := none, bc := none, cf := none }

/-- Hardware reset in any state, in the middle of an operation or of a hang too: every register takes its reset value,
no answer is delivered, no transaction is issued, and unread input stays in the channel (70_reset_and_hazards.md
sections 1 and 3; decisions D6, D24). The unspecified registers take the values of log 8; the schedule rstIn is log
7's. -/
def Obligations.HardwareResetAbandonsTheOperation : Prop :=
  ∀ (s : State) (rs : List Nat), s.rstIn = 0 :: rs →
    step s = .next { State.reset with
      cfg := s.cfg, opIn := s.opIn, answers := s.answers, outAns := s.outAns, inEvents := s.inEvents,
      trace := s.trace, rstIn := rs }

/-- The ST port shows MODE, READY and BUSY as they are, and a data register as "no value" while its valid bit is 0
(10_state.md sections 4 and 6; the valid bits are decision D5). -/
def Obligations.StatusPortHidesInvalidRegisters : Prop :=
  ∀ s : State, s.status.mode = s.mode ∧ s.status.ready = s.ready ∧ s.status.busy = decide (s.seq ≠ .rest) ∧
    (s.hsv = false → s.status.hs = none) ∧ (s.hsv = true → s.status.hs = some s.hs) ∧
    (s.bcv = false → s.status.bc = none) ∧ (s.bcv = true → s.status.bc = some s.bc) ∧
    (s.cfv = false → s.status.cf = none) ∧ (s.cfv = true → s.status.cf = some s.cf)

/-- R28: BUSY = 1 exactly when SEQ ≠ REST, and while BUSY = 1 the OP port accepts no request. -/
def Obligations.BusyIsSeqNotAtRestAndTakesNoRequest : Prop :=
  (∀ s : State, s.status.busy = true ↔ s.seq ≠ .rest) ∧
  ∀ s t : State, s.status.busy = true → step s = .next t → t.opIn = s.opIn

/-! ### encoding -/

/-- Table words decode to their rows (opcode_table.json; a sanity statement). The rows CMD_TX_START and DATA have no
table word of their own (log 14) and are read at their positions. -/
def Obligations.TableWordsDecodeToTheirRows : Prop :=
  decodeTableWord 8 0b000 = some .construct ∧ decodeTableWord 8 0b001 = some .fwrev ∧
  decodeTableWord 8 0b010 = some .reset ∧ decodeTableWord 8 0b011 = some .sample ∧
  decodeTableWord 8 0b100 = some .irmode ∧ decodeTableWord 8 0b101 = some .receive ∧
  decodeTableWord 8 0b110 = some (.transmit []) ∧ decodeTableWord 8 0b111 = some .illegal ∧
  decodeTableWord 40 0x0000000000 = some .cmdReset ∧ decodeTableWord 8 0b01110110 = some .cmdVersion ∧
  decodeTableWord 8 0b01010011 = some .cmdSample ∧ decodeTableWord 16 0b0100100101010010 = some .cmdIr ∧
  decodeTableWord 8 0b00100110 = some .cmdTxHandshake ∧ decodeTableWord 8 0b00100101 = some .cmdTxNotify ∧
  decode (.command [0x03]) = .ok .cmdTxStart ∧ decode (.chunk [0x03]) = .ok (.data [0x03])

/-- Decode and encode agree on every well-formed instruction of the table, with every operand: the TRANSMIT operand of
any length, the DATA chunk of 1 to 32 bytes (30_encoding.md sections 1, 3 and 8). -/
def Obligations.DecodeOfEncodeIsTheInstruction : Prop :=
  ∀ i : Instr, i.wf = true → decode (encode i) = .ok i

/-- Every word the decoder accepts is the encoding of the well-formed instruction it answers, but for an operand beside
an op other than TRANSMIT's, which is not read (log 13), and no two ops give one instruction. -/
def Obligations.AcceptedWordsAreEncodings : Prop :=
  ∀ (w : FetchWord) (i : Instr), decode w = .ok i →
    i.wf = true ∧
    (encode i = w ∨ ∃ (op : BitVec 3) (code : List Byte), w = .request { op := op, operand := code } ∧ op ≠ 6 ∧
      encode i = .request { op := op, operand := [] })

/-- What SEQ fetches: the host's next request at REST, the command string at the 21 command positions, the chunk at
TX.WC (30_encoding.md sections 1 and 3; 20_memory.md section 1). -/
def Obligations.FetchFollowsThePosition : Prop :=
  ∀ s : State,
    (s.seq = .rest → fetch s = s.opIn.head?.map .request) ∧
    (∀ c q bs, (c, s.seq, q) ∈ commandSites → (c, bs) ∈ commandStrings → fetch s = some (.command bs)) ∧
    (s.seq = .txWC → fetch s = some (.chunk s.slice)) ∧
    (s.seq ≠ .rest → s.seq ≠ .txWC → (∀ c q, (c, s.seq, q) ∉ commandSites) → fetch s = none)

/-- A step runs the decoded instruction: with no hardware reset due, where the word at SEQ decodes to `i`, the step is
exec of `i`, at the state in which only the count to the next hardware reset has moved (log 7). -/
def Obligations.StepRunsTheDecodedInstruction : Prop :=
  ∀ (s : State) (w : FetchWord) (i : Instr), s.rstIn.head? ≠ some 0 → fetch s = some w → decode w = .ok i →
    step s = exec i { s with rstIn := countDown s.rstIn }

/-! ### acceptance of the host operations -/

/-- A host operation while BUSY is refused by name: the host has no such move (30_encoding.md section 1; decision D18,
93_implementation_defined.md U6; log 5). -/
def Obligations.RequestWhileBusyIsRefused : Prop :=
  ∀ (i : Instr) (s : State), requestOf i ≠ none → s.seq ≠ .rest → exec i s = .refused .requestWhileBusy

/-- op = 7 answers Fail(IllegalOperation), whatever READY is, and changes no register (30_encoding.md section 5;
decision D29). -/
def Obligations.IllegalOperationIsAnsweredWithoutEffect : Prop :=
  ∀ s : State, s.seq = .rest →
    exec .illegal s = .next { s with opIn := s.opIn.tail, answers := s.answers ++ [.fail .illegalOperation] }

/-- Every operation but CONSTRUCT is refused with NotReady while READY = 0, before any operand check, and no register
changes (10_state.md section 2; 30_encoding.md section 1; decision D2). -/
def Obligations.UnreadyBlockRefusesEveryOperation : Prop :=
  ∀ (s : State) (code : List Byte), s.seq = .rest → s.ready = false →
    ∀ i ∈ [Instr.fwrev, .reset, .sample, .irmode, .receive, .transmit code],
      exec i s = .next { s with opIn := s.opIn.tail, answers := s.answers ++ [.fail .notReady] }

/-- CONSTRUCT is accepted at rest with READY 0 or 1, and clears READY and the valid bits in that step
(40_version_construct.md, CONSTRUCT; decision D20). That HS, BC and CF keep their bits under the cleared valid bits is
the model's choice, log 23. -/
def Obligations.ConstructIsAccepted : Prop :=
  ∀ s : State, s.seq = .rest →
    exec .construct s =
      .next { s with opIn := s.opIn.tail, ready := false, hsv := false, bcv := false, cfv := false, seq := .conF }

/-- FWREV, RESET, SAMPLE and IRMODE are accepted at rest with READY = 1, from every MODE, and only move SEQ to their
first position (30_encoding.md section 1). -/
def Obligations.ModeOperationsAreAccepted : Prop :=
  ∀ s : State, s.seq = .rest → s.ready = true →
    exec .fwrev s = .next { s with opIn := s.opIn.tail, seq := .fwr (.rst .p1) } ∧
    exec .reset s = .next { s with opIn := s.opIn.tail, seq := .rst .p1 } ∧
    exec .sample s = .next { s with opIn := s.opIn.tail, seq := .smp (.rst .p1) } ∧
    exec .irmode s = .next { s with opIn := s.opIn.tail, seq := .irmRst .p1 }

/-- RECEIVE is accepted at rest with READY = 1, with RBUF and RCNT cleared (42_receive.md, RECEIVE). That PREV keeps its
value while RCNT = 0 is the model's choice, log 22. -/
def Obligations.ReceiveIsAccepted : Prop :=
  ∀ s : State, s.seq = .rest → s.ready = true →
    exec .receive s = .next { s with opIn := s.opIn.tail, rbuf := [], rcnt := 0, seq := .rcvP1 }

/-- TRANSMIT is accepted at rest with READY = 1 for an even operand of 2 bytes or more: CBUF is the operand, with 0xFF
0xFF appended where it does not end in them (43_transmit.md, step 1; the MAX_CODE_LEN premise is decision D23; that it
bounds the adjusted length is the model's choice, log 21). -/
def Obligations.TransmitLoadsTheAdjustedCode : Prop :=
  ∀ (s : State) (code cb : List Byte), s.seq = .rest → s.ready = true → 2 ≤ code.length → code.length % 2 = 0 →
    ((∃ pre, code = pre ++ [0xFF, 0xFF]) ∧ cb = code ∨
      (¬ ∃ pre, code = pre ++ [0xFF, 0xFF]) ∧ cb = code ++ [0xFF, 0xFF]) →
    (∀ m, s.cfg.maxCodeLen = some m → cb.length ≤ m) →
    exec (.transmit code) s =
      .next { s with opIn := s.opIn.tail, cbuf := cb, clen := cb.length, pend := none, seq := .txP1 }

/-- R212: an operand shorter than 2 or of odd length is InvalidArgument at acceptance: no register changes, no
transaction, no recovery (SEQ stays REST). -/
def Obligations.InvalidArgumentTouchesNothing : Prop :=
  ∀ (s : State) (code : List Byte), s.seq = .rest → s.ready = true → (code.length < 2 ∨ code.length % 2 = 1) →
    ∃ why, exec (.transmit code) s =
      .next { s with opIn := s.opIn.tail, answers := s.answers ++ [.fail (.invalidArgument why)] }

/-- Which sub-reason InvalidArgument carries, in the order tested: TooShort, OddLength, and TooLong on the adjusted
length when MAX_CODE_LEN is set (43_transmit.md step 1; 60_exceptions.md section 2; decisions D27, D23). That the bound
is on the adjusted length (m < code.length + 2 where the sentinel is missing) is the model's choice, log 21. -/
def Obligations.InvalidArgumentReasonsInOrder : Prop :=
  ∀ (s : State) (code : List Byte), s.seq = .rest → s.ready = true →
    ∀ why : ArgReason,
      (code.length < 2 ∧ why = .tooShort ∨
        2 ≤ code.length ∧ code.length % 2 = 1 ∧ why = .oddLength ∨
        2 ≤ code.length ∧ code.length % 2 = 0 ∧ why = .tooLong ∧
          ∃ m, s.cfg.maxCodeLen = some m ∧
            ((∃ pre, code = pre ++ [0xFF, 0xFF]) ∧ m < code.length ∨
              (¬ ∃ pre, code = pre ++ [0xFF, 0xFF]) ∧ m < code.length + 2)) →
      exec (.transmit code) s =
        .next { s with opIn := s.opIn.tail, answers := s.answers ++ [.fail (.invalidArgument why)] }

/-! ### the wire commands -/

/-- CMD_RESET at each of its ten positions: five zero bytes in one write, whatever count is answered, and MODE <- Idle
in that step (41_mode_transitions.md, RESET; one transaction is decision D12). -/
def Obligations.ResetSequenceSetsIdle : Prop :=
  ∀ (s : State) (p q : Pos) (n : Nat) (rest : List OutAnswer), (p, q) ∈ resetSites → s.seq = p →
    s.outAns = .done n :: rest →
    exec .cmdReset s =
      .next { s with mode := .idle, seq := q, outAns := rest, trace := s.trace ++ [.write [0, 0, 0, 0, 0] n] }

/-- CMD_VERSION, CMD_SAMPLE, CMD_IR, CMD_TX_HANDSHAKE, CMD_TX_NOTIFY, CMD_TX_START at each of their positions: one write
of their string, the count discarded, no register but SEQ changed (30_encoding.md section 3; 20_memory.md section 1). -/
def Obligations.CommandsWriteTheirStrings : Prop :=
  ∀ (s : State) (c : Instr) (p q : Pos) (bs : List Byte) (n : Nat) (rest : List OutAnswer), (c, p, q) ∈ otherSites →
    (c, bs) ∈ commandStrings → s.seq = p → s.outAns = .done n :: rest →
    exec c s = .next { s with seq := q, outAns := rest, trace := s.trace ++ [.write bs n] }

/-- DATA at TX.WC: one write of CBUF[CIDX : min(CIDX+32, CLEN)]; the count, unclipped (decision D11), is added to WSUM
(43_transmit.md, step 3). -/
def Obligations.ChunkWriteAddsItsCount : Prop :=
  ∀ (s : State) (n : Nat) (rest : List OutAnswer), s.seq = .txWC → s.cidx < s.clen → s.clen = s.cbuf.length →
    s.outAns = .done n :: rest →
    exec (.data s.slice) s =
      .next { s with wsum := s.wsum + n, seq := .txRC, outAns := rest, trace := s.trace ++ [.write s.slice n] }

/-- A command away from its positions, and a chunk that is not the one at TX.WC, is refused by name: PSM writes nothing
else (30_encoding.md section 3; log 6). DATA at its own position, with the slice, never stops unless the slice has no
bytes, where it faults (20_memory.md section 1; the fault is the model's choice, log 19). -/
def Obligations.CommandOutOfPlaceIsRefused : Prop :=
  ∀ s : State,
    (∀ c bs, (c, bs) ∈ commandStrings → (∀ q, (c, s.seq, q) ∉ commandSites) → exec c s = .refused .commandOutOfPlace) ∧
    (∀ bs, s.seq ≠ .txWC ∨ bs ≠ s.slice → exec (.data bs) s = .refused .commandOutOfPlace) ∧
    (s.seq = .txWC → s.slice ≠ [] → ∃ t, exec (.data s.slice) s = .next t) ∧
    (s.seq = .txWC → s.slice = [] → exec (.data []) s = .fault .emptyChunk)

/-! ### frames -/

/-- What the host operations leave unchanged, on every path that answers a next state: every register, both buffers, the
channel and the trace, but SEQ and, for CONSTRUCT, READY and the valid bits; for RECEIVE, RBUF and RCNT; for TRANSMIT,
CBUF, CLEN and PEND. The request is taken. Two clauses are the model's choice: that RECEIVE keeps PREV while RCNT = 0
(log 22), and that CONSTRUCT keeps the bits of HS, BC and CF under the cleared valid bits (log 23). -/
def Obligations.HostOperationFrame : Prop :=
  ∀ (s t : State) (code : List Byte),
    (∀ i ∈ [Instr.fwrev, .reset, .sample, .irmode, .illegal], exec i s = .next t →
      t = { s with seq := t.seq, answers := t.answers, opIn := s.opIn.tail }) ∧
    (exec .construct s = .next t →
      t = { s with
        ready := t.ready, hsv := t.hsv, bcv := t.bcv, cfv := t.cfv, seq := t.seq, answers := t.answers,
        opIn := s.opIn.tail }) ∧
    (exec .receive s = .next t →
      t = { s with rbuf := t.rbuf, rcnt := t.rcnt, seq := t.seq, answers := t.answers, opIn := s.opIn.tail }) ∧
    (exec (.transmit code) s = .next t →
      t = { s with
        cbuf := t.cbuf, clen := t.clen, pend := t.pend, seq := t.seq, answers := t.answers, opIn := s.opIn.tail })

/-- What the wire commands leave unchanged, on every path that answers a next state: every register and both buffers but
SEQ, and on a fault PEND; CMD_RESET may change MODE too, and DATA WSUM. No command takes a request or reads. That the
transient registers keep their last values where a channel fault ends the operation is the model's choice, log 22. -/
def Obligations.WireCommandFrame : Prop :=
  ∀ (s t : State) (bytes : List Byte),
    (∀ c ∈ [Instr.cmdVersion, .cmdSample, .cmdIr, .cmdTxHandshake, .cmdTxNotify, .cmdTxStart], exec c s = .next t →
      t = { s with seq := t.seq, pend := t.pend, answers := t.answers, outAns := s.outAns.tail, trace := t.trace }) ∧
    (exec .cmdReset s = .next t →
      t = { s with
        mode := t.mode, seq := t.seq, pend := t.pend, answers := t.answers, outAns := s.outAns.tail,
        trace := t.trace }) ∧
    (exec (.data bytes) s = .next t →
      t = { s with
        wsum := t.wsum, seq := t.seq, pend := t.pend, answers := t.answers, outAns := s.outAns.tail,
        trace := t.trace })

/-! ### failures -/

/-- A channel fault outside TRANSMIT's protected section and outside recovery aborts: no assignment of the position
takes effect, SEQ <- REST, Fail(ChannelFault(x)) (60_exceptions.md section 1; decision D14). Two clauses are the model's
choice: that a read which faults has consumed the bytes before the fault (log 12), and that the transient registers keep
their last values at REST (log 22). -/
def Obligations.ChannelFaultAbortsTheOperation : Prop :=
  ∀ (s u : State) (x : FaultInfo), s.noResetDue → faultsWith s x u → s.seq ∉ guardedPositions →
    s.seq ∉ recoveryPositions →
    step s = .next { u with
      seq := .rest, answers := s.answers ++ [.fail (.channelFault x)], rstIn := countDown s.rstIn }

/-- R216, R182: recovery entry. A channel fault at a position of the protected section, or the failure its check raises,
saves the exception in PEND and moves SEQ to TX.REC.RST.P1; a faulting position assigns nothing, the checks keep what
the step assigned; and from no other position is recovery entered. `es` is the input left in the channel: all of it
after a write, what stands behind the fault where the fault comes first, and nothing is claimed where bytes of the same
read come before it. -/
def Obligations.ProtectedFailuresEnterRecovery : Prop :=
  (∀ (s u : State) (x : FaultInfo), s.noResetDue → faultsWith s x u → s.seq ∈ guardedPositions →
    ∃ es, (u.inEvents = s.inEvents ∨ s.inEvents.head? = some (.fault x) → es = u.inEvents) ∧
    step s = .next { u with
      inEvents := es, pend := some (.channelFault x), seq := .txRecRst .p1, rstIn := countDown s.rstIn }) ∧
  (∀ (s : State) (h : Byte) (rest : List InEvent), s.noResetDue → s.seq = .txRC → s.inEvents = .byte h :: rest →
    s.clen ≤ s.cidx + 32 → s.wsum ≠ s.clen →
    ∃ a b, step s = .next { s with
      hs := h, hsv := true, cidx := s.cidx + 32, pend := some (.writeCountMismatch a b), seq := .txRecRst .p1,
      inEvents := rest, trace := s.trace ++ [.read 1 [h]], rstIn := countDown s.rstIn }) ∧
  (∀ (s : State) (f : Byte) (rest : List InEvent), s.noResetDue → s.seq = .txR1 → s.inEvents = .byte f :: rest →
    f ≠ 0x63 → f ≠ 0x43 →
    step s = .next { s with
      cf := f, cfv := true, pend := some (.irTransmitError f), seq := .txRecRst .p1,
      inEvents := rest, trace := s.trace ++ [.read 1 [f]], rstIn := countDown s.rstIn }) ∧
  (∀ (s : State) (r0 r1 r2 : Byte) (rest : List InEvent), s.noResetDue → s.seq = .txR3 →
    s.inEvents = delivers [r0, r1, r2] ++ rest → s.cfg.countDecode = .asciihex2 → (noHexDigit r1 ∨ noHexDigit r2) →
    ∃ r, step s = .next { s with
      pend := some (.reportParseFault r), seq := .txRecRst .p1,
      inEvents := rest, trace := s.trace ++ [.read 3 [r0, r1, r2]], rstIn := countDown s.rstIn }) ∧
  (∀ s t : State, step s = .next t → t.seq = .txRecRst .p1 → s.seq ∈ guardedPositions)

/-- A channel fault during recovery: recovery is abandoned, PEND is emptied, the second failure is the answer, and
recovery is not entered again (60_exceptions.md section 1; decision D15). Two clauses are the model's choice: that a
read which faults has consumed the bytes before the fault (log 12), and that the transient registers keep their last
values at REST (log 22). -/
def Obligations.SecondFaultAbandonsRecovery : Prop :=
  ∀ (s u : State) (x : FaultInfo), s.noResetDue → faultsWith s x u → s.seq ∈ recoveryPositions →
    step s = .next { u with
      pend := none, seq := .rest, answers := s.answers ++ [.fail (.channelFault x)], rstIn := countDown s.rstIn }

/-- R217: the recovery sequence is RESET then SAMPLE; when its last pause completes MODE is Sampling, the answer is
Fail(PEND), PEND is empty and SEQ is REST; the data phase is not resumed. Ten steps, with whatever counts and bytes the
channel answers (two reset sequences before the 'S'). Nothing is claimed of the transient registers at REST. -/
def Obligations.RecoveryDeliversTheOriginalFailure : Prop :=
  ∀ (s : State) (e : Exn) (a b c : Nat) (q : List Byte) (outs : List OutAnswer) (ins : List InEvent), s.quiet →
    s.seq = .txRecRst .p1 → s.pend = some e → s.outAns = .done a :: .done b :: .done c :: outs → q.length = 3 →
    s.inEvents = delivers q ++ ins →
    ∃ t, run 10 s = .next t ∧ agreesAtRest t { s with
      mode := .sampling, pend := none, seq := .rest, answers := s.answers ++ [.fail e], outAns := outs, inEvents := ins,
      trace := s.trace ++ resetTrace a ++ sampleTrace b c q }

/-- A transaction the channel has not answered: PSM stays where it is, changes nothing and is BUSY; at REST with no
request it waits (10_state.md section 4; 60_exceptions.md section 2; decision D26). That a hang and a wait are steps in
which only the count to the next hardware reset moves is the model's choice (logs 2, 3 and 7). -/
def Obligations.UnansweredTransactionsHang : Prop :=
  ∀ s : State, s.noResetDue →
    (s.seq = .rest → s.opIn = [] → step s = .next { s with rstIn := countDown s.rstIn }) ∧
    (∀ k bs, (s.seq, k) ∈ readSites → bs.length < k → s.inEvents = delivers bs →
      step s = .next { s with rstIn := countDown s.rstIn } ∧ s.status.busy = true) ∧
    (∀ c q, (c, s.seq, q) ∈ commandSites → s.outAns = [] →
      step s = .next { s with rstIn := countDown s.rstIn } ∧ s.status.busy = true) ∧
    (s.seq = .conF ∨ s.seq = .txWC ∧ s.slice ≠ [] → s.outAns = [] →
      step s = .next { s with rstIn := countDown s.rstIn } ∧ s.status.busy = true)

/-! ### the version query and CONSTRUCT -/

/-- The version response at FWR.R and at CON.FWR.R. Three decimal digits are hw and fw = 10 * tens + units and the tag
is not examined: FWREV answers Ok(hw, fw), and CONSTRUCT goes on to the sampling entry from version 22 and fails with
FirmwareVersionError below it. Any other byte among the three gives VersionParseFault with the bytes read, in both
(30_encoding.md section 4; 40_version_construct.md; decisions D10, D27). That VBUF holds the bytes afterwards is the
model's choice, log 20, and that the other transient registers keep their values at REST is log 22's. -/
def Obligations.VersionResponseIsParsed : Prop :=
  ∀ (s : State) (v0 v1 v2 v3 : Byte) (rest : List InEvent), s.noResetDue →
    s.inEvents = delivers [v0, v1, v2, v3] ++ rest →
    (∀ a b c : Nat, a ≤ 9 → b ≤ 9 → c ≤ 9 → v1.toNat = 0x30 + a → v2.toNat = 0x30 + b → v3.toNat = 0x30 + c →
      (s.seq = .fwr .r → step s = .next { s with
        vbuf := [v0, v1, v2, v3], seq := .rest, answers := s.answers ++ [.ok (.version a (10 * b + c))],
        inEvents := rest, trace := s.trace ++ [.read 4 [v0, v1, v2, v3]], rstIn := countDown s.rstIn }) ∧
      (s.seq = .conFwr .r → 22 ≤ 10 * b + c → step s = .next { s with
        vbuf := [v0, v1, v2, v3], seq := .conSmp (.rst .p1),
        inEvents := rest, trace := s.trace ++ [.read 4 [v0, v1, v2, v3]], rstIn := countDown s.rstIn }) ∧
      (s.seq = .conFwr .r → 10 * b + c < 22 → step s = .next { s with
        vbuf := [v0, v1, v2, v3], seq := .rest,
        answers := s.answers ++ [.fail (.firmwareVersionError a (10 * b + c))],
        inEvents := rest, trace := s.trace ++ [.read 4 [v0, v1, v2, v3]], rstIn := countDown s.rstIn })) ∧
    ((∃ v ∈ [v1, v2, v3], v.toNat < 0x30 ∨ 0x39 < v.toNat) → s.seq = .fwr .r ∨ s.seq = .conFwr .r →
      step s = .next { s with
        vbuf := [v0, v1, v2, v3], seq := .rest,
        answers := s.answers ++ [.fail (.versionParseFault [v0, v1, v2, v3])],
        inEvents := rest, trace := s.trace ++ [.read 4 [v0, v1, v2, v3]], rstIn := countDown s.rstIn })

/-- CONSTRUCT from acceptance on a version of 22 or more, whatever hw is: after 15 steps Ok, MODE = Sampling, READY = 1,
no data register has a value, and the channel has seen the flush, the version query and the sampling entry
(40_version_construct.md, CONSTRUCT). What VBUF holds at the end is the model's choice, log 20, and that the other
transient registers keep their values at REST is log 22's. That HS, BC and CF keep their bits under the cleared valid
bits is log 23's. -/
def Obligations.ConstructSucceedsFromVersion22 : Prop :=
  ∀ (s : State) (r : Request) (reqs : List Request) (z a b c d hw tens units : Nat) (v0 v1 v2 v3 : Byte)
    (q : List Byte) (outs : List OutAnswer) (ins : List InEvent), s.quiet → s.seq = .rest → s.opIn = r :: reqs →
    r.op = 0 → s.outAns = .done z :: .done a :: .done b :: .done c :: .done d :: outs →
    hw ≤ 9 → tens ≤ 9 → units ≤ 9 → v1.toNat = 0x30 + hw → v2.toNat = 0x30 + tens → v3.toNat = 0x30 + units →
    22 ≤ 10 * tens + units → q.length = 3 → s.inEvents = delivers [v0, v1, v2, v3] ++ delivers q ++ ins →
    run 15 s = .next { s with
      opIn := reqs, mode := .sampling, ready := true, hsv := false, bcv := false, cfv := false, seq := .rest,
      vbuf := [v0, v1, v2, v3], answers := s.answers ++ [.ok .nothing], outAns := outs, inEvents := ins,
      trace := s.trace ++ [.flush] ++ versionTrace a b [v0, v1, v2, v3] ++ sampleTrace c d q }

/-- CONSTRUCT below version 22: FirmwareVersionError, MODE = Idle, READY = 0, and no 'S' is sent
(40_version_construct.md, CONSTRUCT; the payload is decision D27). What VBUF holds at the end is the model's choice, log
20, and that the other transient registers keep their values at REST is log 22's. That HS, BC and CF keep their bits
under the cleared valid bits is log 23's. -/
def Obligations.ConstructRefusesOldFirmware : Prop :=
  ∀ (s : State) (r : Request) (reqs : List Request) (z a b hw tens units : Nat) (v0 v1 v2 v3 : Byte)
    (outs : List OutAnswer) (ins : List InEvent), s.quiet → s.seq = .rest → s.opIn = r :: reqs → r.op = 0 →
    s.outAns = .done z :: .done a :: .done b :: outs → hw ≤ 9 → tens ≤ 9 → units ≤ 9 → v1.toNat = 0x30 + hw →
    v2.toNat = 0x30 + tens → v3.toNat = 0x30 + units → 10 * tens + units < 22 →
    s.inEvents = delivers [v0, v1, v2, v3] ++ ins →
    run 8 s = .next { s with
      opIn := reqs, mode := .idle, ready := false, hsv := false, bcv := false, cfv := false, seq := .rest,
      vbuf := [v0, v1, v2, v3], answers := s.answers ++ [.fail (.firmwareVersionError hw (10 * tens + units))],
      outAns := outs, inEvents := ins, trace := s.trace ++ [.flush] ++ versionTrace a b [v0, v1, v2, v3] }

/-- FWREV from acceptance: after 7 steps Ok(hw, fw), MODE = Idle, nothing else changed (40_version_construct.md, FWREV;
what VBUF holds is the model's choice, log 20, and that the other transient registers keep their values at REST is log
22's). -/
def Obligations.FwrevAnswersTheVersionAndLeavesIdle : Prop :=
  ∀ (s : State) (r : Request) (reqs : List Request) (a b hw tens units : Nat) (v0 v1 v2 v3 : Byte)
    (outs : List OutAnswer) (ins : List InEvent), s.quiet → s.seq = .rest → s.ready = true → s.opIn = r :: reqs →
    r.op = 1 → s.outAns = .done a :: .done b :: outs → hw ≤ 9 → tens ≤ 9 → units ≤ 9 → v1.toNat = 0x30 + hw →
    v2.toNat = 0x30 + tens → v3.toNat = 0x30 + units → s.inEvents = delivers [v0, v1, v2, v3] ++ ins →
    run 7 s = .next { s with
      opIn := reqs, mode := .idle, vbuf := [v0, v1, v2, v3],
      answers := s.answers ++ [.ok (.version hw (10 * tens + units))], outAns := outs, inEvents := ins,
      trace := s.trace ++ versionTrace a b [v0, v1, v2, v3] }

/-! ### the mode operations -/

/-- RESET from acceptance: after 4 steps Ok, MODE = Idle from any MODE, the five zero bytes written, nothing read, the
last handshake and report kept (41_mode_transitions.md, RESET; one transaction is decision D12). That the transient
registers keep their values at REST is the model's choice, log 22. -/
def Obligations.ResetRunsFromAnyMode : Prop :=
  ∀ (s : State) (r : Request) (reqs : List Request) (n : Nat) (outs : List OutAnswer), s.quiet → s.seq = .rest →
    s.ready = true → s.opIn = r :: reqs → r.op = 2 → s.outAns = .done n :: outs →
    run 4 s = .next { s with
      opIn := reqs, mode := .idle, answers := s.answers ++ [.ok .nothing], outAns := outs,
      trace := s.trace ++ resetTrace n }

/-- SAMPLE from acceptance: after 8 steps Ok, MODE = Sampling from any MODE, any three response bytes dropped
(41_mode_transitions.md, SAMPLE). That the transient registers keep their values at REST is the model's choice, log
22. -/
def Obligations.SampleRunsFromAnyMode : Prop :=
  ∀ (s : State) (r : Request) (reqs : List Request) (a b : Nat) (q : List Byte) (outs : List OutAnswer)
    (ins : List InEvent), s.quiet → s.seq = .rest → s.ready = true → s.opIn = r :: reqs → r.op = 3 →
    s.outAns = .done a :: .done b :: outs → q.length = 3 → s.inEvents = delivers q ++ ins →
    run 8 s = .next { s with
      opIn := reqs, mode := .sampling, answers := s.answers ++ [.ok .nothing], outAns := outs, inEvents := ins,
      trace := s.trace ++ sampleTrace a b q }

/-- IRMODE from acceptance: after 6 steps Ok, MODE = IR_MODE_RESULT (decision D7), nothing read (41_mode_transitions.md,
IRMODE). That the transient registers keep their values at REST is the model's choice, log 22. -/
def Obligations.IrmodeRunsFromAnyMode : Prop :=
  ∀ (s : State) (r : Request) (reqs : List Request) (a b : Nat) (outs : List OutAnswer), s.quiet → s.seq = .rest →
    s.ready = true → s.opIn = r :: reqs → r.op = 4 → s.outAns = .done a :: .done b :: outs →
    run 6 s = .next { s with
      opIn := reqs, mode := s.cfg.irModeResult, answers := s.answers ++ [.ok .nothing], outAns := outs,
      trace := s.trace ++ resetTrace a ++ [.write [0x49, 0x52] b, .pause] }

/-- R88: any three bytes answer the sampling command; they are dropped, and the read's completion is all that counts. -/
def Obligations.SamplingResponseIsDropped : Prop :=
  ∀ (s : State) (p q : Pos) (b : List Byte) (rest : List InEvent), s.noResetDue → (p, q) ∈ sampleReadSites → s.seq = p →
    b.length = 3 → s.inEvents = delivers b ++ rest →
    step s = .next { s with
      seq := q, inEvents := rest, trace := s.trace ++ [.read 3 b], rstIn := countDown s.rstIn }

/-! ### RECEIVE -/

/-- One read of the receive loop: the byte is appended and counted, and the loop ends exactly when the new count is at
least 3 and this byte and the one before are both 0xFF (42_receive.md, the row RCV.R). With RBUF_MAX set and RBUF full
the run is refused (decision D23; log 17). -/
def Obligations.ReceiveLoopStep : Prop :=
  ∀ (s : State) (b : Byte) (rest : List InEvent), s.noResetDue → s.seq = .rcvR → s.inEvents = .byte b :: rest →
    ((∀ m, s.cfg.rbufMax = some m → s.rbuf.length < m) →
      step s = .next { s with
        rbuf := s.rbuf ++ [b], rcnt := s.rcnt + 1, prev := b,
        seq := if 3 ≤ s.rcnt + 1 ∧ b = 0xFF ∧ s.prev = 0xFF then .rcvP2 else .rcvR,
        inEvents := rest, trace := s.trace ++ [.read 1 [b]], rstIn := countDown s.rstIn }) ∧
    (∀ m, s.cfg.rbufMax = some m → m ≤ s.rbuf.length → step s = .refused .receiveBufferOverflow)

/-- R151: RECEIVE returns s[0 : n] for the least n ≥ 3 with s[n-1] = s[n-2] = 0xFF, reads no byte beyond it, and ends in
Sampling; over a stream with no such n it does not return: it reads all of the stream at RCV.R, and no run, however
long, delivers an answer. The stream is what is delivered at RCV.R; the sampling response `q` before it does not count.
Nothing is claimed of the transient registers at REST. -/
def Obligations.ReceiveReturnsUpToTheFirstTerminator : Prop :=
  ∀ (s : State) (r : Request) (reqs : List Request) (a b : Nat) (q xs : List Byte) (outs : List OutAnswer),
    s.quiet → s.seq = .rest → s.ready = true → s.cfg.rbufMax = none → s.opIn = r :: reqs → r.op = 5 →
    s.outAns = .done a :: .done b :: outs → q.length = 3 →
    (∀ ins, s.inEvents = delivers q ++ delivers xs ++ ins → firstStopsAt xs xs.length →
      ∃ t, run (xs.length + 10) s = .next t ∧ agreesAtRest t { s with
        opIn := reqs, mode := .sampling, answers := s.answers ++ [.ok (.bytes xs)], outAns := outs, inEvents := ins,
        trace := s.trace ++ [.pause] ++ sampleTrace a b q ++ xs.map (fun x => .read 1 [x]) ++ [.pause] }) ∧
    (s.inEvents = delivers q ++ delivers xs → (∀ k ≤ xs.length, ¬ stopsAt xs k) →
      (∀ k ≤ xs.length, ∃ t, run (9 + k) s = .next t ∧ t.seq = .rcvR ∧ t.rbuf = xs.take k ∧ t.answers = s.answers) ∧
      ∀ k t, run k s = .next t → t.answers = s.answers)

/-! ### TRANSMIT -/

/-- R173: CMD_TX_START then the handshake read: HS <- h for every h, HSV <- 1 and MODE <- Transmit in the step of the
read; if the device does not answer, PSM stays at TX.RH with MODE at its old value and performs and answers nothing; if
either transaction faults, recovery is entered with MODE unchanged. -/
def Obligations.SetupHandshakeEntersTransmitMode : Prop :=
  ∀ s : State, s.noResetDue →
    (s.seq = .txW03 → ∀ n rest, s.outAns = .done n :: rest →
      step s = .next { s with
        seq := .txRH, outAns := rest, trace := s.trace ++ [.write [0x03] n], rstIn := countDown s.rstIn }) ∧
    (s.seq = .txRH → ∀ h rest, s.inEvents = .byte h :: rest →
      step s = .next { s with
        hs := h, hsv := true, mode := .transmit, seq := .txP2, inEvents := rest,
        trace := s.trace ++ [.read 1 [h]], rstIn := countDown s.rstIn }) ∧
    (s.seq = .txRH → s.inEvents = [] → ∀ t, step s = .next t →
      t.seq = .txRH ∧ t.mode = s.mode ∧ t.hs = s.hs ∧ t.hsv = s.hsv ∧ t.trace = s.trace ∧ t.answers = s.answers) ∧
    (s.seq = .txW03 → ∀ x rest, s.outAns = .fault x :: rest →
      step s = .next { s with
        pend := some (.channelFault x), seq := .txRecRst .p1, outAns := rest,
        trace := s.trace ++ [.writeFault [0x03] x], rstIn := countDown s.rstIn }) ∧
    (s.seq = .txRH → ∀ x rest, s.inEvents = .fault x :: rest →
      step s = .next { s with
        pend := some (.channelFault x), seq := .txRecRst .p1, inEvents := rest,
        trace := s.trace ++ [.readFault 1 x], rstIn := countDown s.rstIn })

/-- R89: a handshake byte is read after CMD_TX_START and after every chunk, stored in HS, and any value is accepted:
what follows does not depend on it. -/
def Obligations.HandshakeByteIsStoredUnchecked : Prop :=
  (∀ s t : State, exec .cmdTxStart s = .next t → (∃ n rest, s.outAns = .done n :: rest) → t.seq = .txRH) ∧
  (∀ (s t : State) (bs : List Byte), exec (.data bs) s = .next t → (∃ n rest, s.outAns = .done n :: rest) →
    t.seq = .txRC) ∧
  (∀ s : State, s.noResetDue → s.seq = .txRH ∨ s.seq = .txRC →
    ∃ (m : Mode) (i : Nat) (p : Pos) (e : Option Exn), ∀ (h : Byte) (rest : List InEvent),
      step { s with inEvents := .byte h :: rest } = .next { s with
        hs := h, hsv := true, mode := m, cidx := i, seq := p, pend := e, inEvents := rest,
        trace := s.trace ++ [.read 1 [h]], rstIn := countDown s.rstIn })

/-- R174: CIDX <- 0 and WSUM <- 0 in the step in which the pause TX.P2 completes; the code array whose chunks are then
written is CBUF, sentinel included: at TX.WC with CIDX = 32 * k the word fetched is the slice, which is chunk k of CBUF,
and these join to CBUF. -/
def Obligations.DataPhaseBeginsAtZero : Prop :=
  (∀ s : State, s.noResetDue → s.seq = .txP2 →
    step s = .next { s with
      cidx := 0, wsum := 0, seq := .txWC, trace := s.trace ++ [.pause], rstIn := countDown s.rstIn }) ∧
  (∀ s : State, s.Inv → s.seq = .txP2 →
    (∃ pre, s.cbuf = pre ++ [0xFF, 0xFF]) ∧
    (∀ k, { s with cidx := 32 * k }.slice = chunkOf s.cbuf k ∧
      fetch { s with seq := .txWC, cidx := 32 * k } = some (.chunk (chunkOf s.cbuf k))) ∧
    (List.range (chunkCount s.clen)).flatMap (chunkOf s.cbuf) = s.cbuf)

/-- The per-chunk handshake: HS, HSV and CIDX are written, then the next chunk while CIDX < CLEN, and after the last
chunk the report if WSUM = CLEN and WriteCountMismatch(WSUM, CLEN) with recovery if not; BC and CF are untouched
(43_transmit.md, step 3; the payload is decision D27). -/
def Obligations.ChunkHandshakeDecidesTheLoop : Prop :=
  ∀ (s : State) (h : Byte) (rest : List InEvent), s.noResetDue → s.seq = .txRC → s.inEvents = .byte h :: rest →
    step s = .next { s with
      hs := h, hsv := true, cidx := s.cidx + 32, inEvents := rest, trace := s.trace ++ [.read 1 [h]],
      rstIn := countDown s.rstIn,
      seq := if s.cidx + 32 < s.clen then .txWC else if s.wsum = s.clen then .txP3 else .txRecRst .p1,
      pend := if s.cidx + 32 < s.clen ∨ s.wsum = s.clen then s.pend
        else some (.writeCountMismatch s.wsum s.clen) }

/-- R70: at TX.WC the bytes written are CBUF[CIDX : min(CIDX+32, CLEN)], of length min(32, CLEN - CIDX), between 1 and
32; after the chunk's handshake CIDX <- CIDX + 32 whatever count the write returned, and no other address register
moves. -/
def Obligations.ChunkSliceIsTheEffectiveAddress : Prop :=
  (∀ s : State, s.Inv → s.noResetDue → s.seq = .txWC → ∀ n rest, s.outAns = .done n :: rest →
    s.slice.length = min 32 (s.clen - s.cidx) ∧ 1 ≤ s.slice.length ∧ s.slice.length ≤ 32 ∧
    step s = .next { s with
      wsum := s.wsum + n, seq := .txRC, outAns := rest, trace := s.trace ++ [.write s.slice n],
      rstIn := countDown s.rstIn }) ∧
  (∀ (s : State) (h : Byte) (rest : List InEvent), s.noResetDue → s.seq = .txRC → s.inEvents = .byte h :: rest →
    ∃ p e, step s = .next { s with
      cidx := s.cidx + 32, hs := h, hsv := true, seq := p, pend := e, inEvents := rest,
      trace := s.trace ++ [.read 1 [h]], rstIn := countDown s.rstIn })

/-- The report's count: 256 * r[1] + r[2] under raw16be; 16 * a + b under asciihex2, where a and b are the values of the
hex digits r[1] and r[2], '0' to '9', 'A' to 'F' or 'a' to 'f', and a pair that is not two hex digits enters recovery
with BC unchanged; r[0] is never examined (30_encoding.md section 4; 43_transmit.md, steps 4 and 5; decision D9; the
code points are ASCII's, log 16). -/
def Obligations.ReportCountIsDecoded : Prop :=
  ∀ (s : State) (r0 r1 r2 : Byte) (rest : List InEvent), s.noResetDue → s.seq = .txR3 →
    s.inEvents = delivers [r0, r1, r2] ++ rest →
    (s.cfg.countDecode = .raw16be → ∃ n : Half, n.toNat = 256 * r1.toNat + r2.toNat ∧
      step s = .next { s with
        bc := n, bcv := true, seq := .txR1, inEvents := rest, trace := s.trace ++ [.read 3 [r0, r1, r2]],
        rstIn := countDown s.rstIn }) ∧
    (s.cfg.countDecode = .asciihex2 → ∀ a b, hexDigit r1 a → hexDigit r2 b →
      ∃ n : Half, n.toNat = 16 * a + b ∧
      step s = .next { s with
        bc := n, bcv := true, seq := .txR1, inEvents := rest, trace := s.trace ++ [.read 3 [r0, r1, r2]],
        rstIn := countDown s.rstIn }) ∧
    (s.cfg.countDecode = .asciihex2 → (noHexDigit r1 ∨ noHexDigit r2) →
      step s = .next { s with
        pend := some (.reportParseFault [r0, r1, r2]), seq := .txRecRst .p1, inEvents := rest,
        trace := s.trace ++ [.read 3 [r0, r1, r2]], rstIn := countDown s.rstIn })

/-- R179, R93: the completion flag. CF <- f and CFV <- 1 before the test; 'c' (0x63) and 'C' (0x43) go on to the closing
sampling entry, every other value enters recovery with IRTransmitError(f), CF holding the failing flag and BC the count
reported with it. No pause separates TX.R3 from TX.R1. -/
def Obligations.CompletionFlagDecidesSuccess : Prop :=
  (∀ (s : State) (f : Byte) (rest : List InEvent), s.noResetDue → s.seq = .txR1 → s.inEvents = .byte f :: rest →
    (f = 0x63 ∨ f = 0x43 →
      step s = .next { s with
        cf := f, cfv := true, seq := .txSmp (.rst .p1), inEvents := rest, trace := s.trace ++ [.read 1 [f]],
        rstIn := countDown s.rstIn }) ∧
    (f ≠ 0x63 → f ≠ 0x43 →
      step s = .next { s with
        cf := f, cfv := true, pend := some (.irTransmitError f), seq := .txRecRst .p1, inEvents := rest,
        trace := s.trace ++ [.read 1 [f]],
        rstIn := countDown s.rstIn })) ∧
  (∀ s t : State, s.noResetDue → s.seq = .txR3 → step s = .next t → t.seq = .txR3 ∨ t.seq = .txR1 ∨ t.seq = .txRecRst .p1)

/-- R180: the success exit. From TX.SMP.RST.P1, after 7 steps MODE = Sampling and the answer is Ok(TransmitReport{BC,
CF}); a channel fault in it aborts with no recovery, leaves MODE Transmit if the fault is at TX.SMP.RST.W and Idle if it
is later, and BC and CF, both valid, still hold the report. Nothing is claimed of the transient registers at REST, nor
of the input `es` left in the channel where bytes of the same read come before the fault. -/
def Obligations.SuccessExitReturnsTheReport : Prop :=
  (∀ (s : State) (a b : Nat) (q : List Byte) (outs : List OutAnswer) (ins : List InEvent), s.quiet →
    s.seq = .txSmp (.rst .p1) → s.outAns = .done a :: .done b :: outs → q.length = 3 → s.inEvents = delivers q ++ ins →
    ∃ t, run 7 s = .next t ∧ agreesAtRest t { s with
      mode := .sampling, seq := .rest, answers := s.answers ++ [.ok (.report s.bc s.cf)], outAns := outs,
      inEvents := ins, trace := s.trace ++ sampleTrace a b q }) ∧
  (∀ (s u : State) (m : Smp) (x : FaultInfo), s.Inv → s.noResetDue → s.seq = .txSmp m → faultsWith s x u →
    ∃ t es, step s = .next t ∧
    (u.inEvents = s.inEvents ∨ s.inEvents.head? = some (.fault x) → es = u.inEvents) ∧
    agreesAtRest t { u with
      mode := if m = .rst .w then .transmit else .idle, pend := none, seq := .rest, inEvents := es,
      answers := s.answers ++ [.fail (.channelFault x)], rstIn := countDown s.rstIn } ∧
    t.bc = s.bc ∧ t.bcv = true ∧ t.cf = s.cf ∧ t.cfv = true)

/-- TRANSMIT from acceptance to its answer, over every valid code and every channel that answers: `pairs` gives the
count and the handshake of each chunk. If the counts sum to CLEN and the flag is 'c' or 'C', the answer is Ok with the
count and the flag reported, MODE = Sampling, and the channel has seen the setup commands, every chunk of the adjusted
code in order with its handshake, the report's reads and the sampling entry (43_transmit.md sections 1 to 5; the default
COUNT_DECODE is decision D9). What the transient registers hold at REST is the model's choice, log 22. -/
def Obligations.TransmitDeliversTheWholeCode : Prop :=
  ∀ (s : State) (r : Request) (reqs : List Request) (a b c d e m : Nat) (h0 h r0 r1 r2 f : Byte)
    (front : List (Nat × Byte)) (q : List Byte) (outs : List OutAnswer) (ins : List InEvent),
    let code := adjustCode r.operand
    let pairs := front ++ [(m, h)]
    s.quiet → s.seq = .rest → s.ready = true → s.cfg.countDecode = .raw16be → s.cfg.maxCodeLen = none →
    s.opIn = r :: reqs → r.op = 6 → 2 ≤ r.operand.length → r.operand.length % 2 = 0 →
    pairs.length = chunkCount code.length → (pairs.map Prod.fst).sum = code.length → f = 0x63 ∨ f = 0x43 →
    q.length = 3 →
    s.outAns = .done a :: .done b :: .done c :: (pairs.map fun p => .done p.1) ++ .done d :: .done e :: outs →
    s.inEvents = delivers (h0 :: pairs.map Prod.snd) ++ delivers [r0, r1, r2, f] ++ delivers q ++ ins →
    ∃ n : Half, n.toNat = 256 * r1.toNat + r2.toNat ∧
    run (17 + 2 * pairs.length) s = .next { s with
      opIn := reqs, mode := .sampling, hs := h, hsv := true, bc := n, bcv := true, cf := f, cfv := true,
      cbuf := code, clen := code.length, cidx := 32 * pairs.length, wsum := code.length, pend := none,
      answers := s.answers ++ [.ok (.report n f)], outAns := outs, inEvents := ins,
      trace := s.trace ++ [.pause, .write [0x26] a, .write [0x25] b, .write [0x03] c, .read 1 [h0], .pause] ++
        dataPhaseTrace code pairs ++ [.pause, .read 3 [r0, r1, r2], .read 1 [f]] ++ sampleTrace d e q }

/-- The chunked write from its first chunk, over every even code that ends in the sentinel and every count and handshake
the channel answers: every chunk is written even if an earlier count was short, and a sum other than CLEN is found only
after the last handshake, which enters recovery with WriteCountMismatch and reads no report (43_transmit.md, step 3; the
payload is decision D27). -/
def Obligations.WrongWriteCountIsFoundAfterTheLastChunk : Prop :=
  ∀ (s : State) (m : Nat) (h : Byte) (front : List (Nat × Byte)) (outs : List OutAnswer) (ins : List InEvent),
    let pairs := front ++ [(m, h)]
    s.quiet → s.seq = .txWC → s.cidx = 0 → s.wsum = 0 → s.clen = s.cbuf.length → s.cbuf ≠ [] →
    pairs.length = chunkCount s.clen → (pairs.map Prod.fst).sum ≠ s.clen →
    s.outAns = (pairs.map fun p => .done p.1) ++ outs → s.inEvents = delivers (pairs.map Prod.snd) ++ ins →
    run (2 * pairs.length) s = .next { s with
      hs := h, hsv := true, cidx := 32 * pairs.length, wsum := (pairs.map Prod.fst).sum,
      pend := some (.writeCountMismatch (pairs.map Prod.fst).sum s.clen), seq := .txRecRst .p1, outAns := outs,
      inEvents := ins, trace := s.trace ++ dataPhaseTrace s.cbuf pairs }

/-- The chunks the machine cuts (chunkAt, which DATA's slice is) at CIDX = 0, 32, 64, ..., joined, are the whole code:
nothing is dropped, repeated or reordered, and no timing pair is split, since every chunk of an even code is even and
has 2 to 32 bytes (20_memory.md sections 5 and 6; 43_transmit.md, step 3). -/
def Obligations.ChunksJoinToTheCode : Prop :=
  ∀ code : List Byte,
    (List.range (chunkCount code.length)).flatMap (fun k => chunkAt code code.length (32 * k)) = code ∧
    (code.length % 2 = 0 → ∀ k < chunkCount code.length, (chunkAt code code.length (32 * k)).length % 2 = 0 ∧
      2 ≤ (chunkAt code code.length (32 * k)).length ∧ (chunkAt code code.length (32 * k)).length ≤ 32)

/-! ### rules over the whole machine -/

/-- MODE changes only at its transition points: the completion of a reset write, of a sampling entry's last pause, of
IRM.P and of TX.RH, and hardware reset (41_mode_transitions.md, the transition table). -/
def Obligations.ModeChangesOnlyAtTransitionPoints : Prop :=
  ∀ s t : State, step s = .next t → t.mode ≠ s.mode →
    (s.rstIn.head? = some 0 ∧ t.mode = .idle) ∨
    (s.seq ∈ resetSites.map Prod.fst ∧ t.mode = .idle) ∨
    (s.seq ∈ sampleEnds ∧ t.mode = .sampling) ∨
    (s.seq = .irmP ∧ t.mode = s.cfg.irModeResult) ∨
    (s.seq = .txRH ∧ t.mode = .transmit)

/-- READY rises only in CONSTRUCT's last step, with its Ok, and falls only when CONSTRUCT is accepted and at hardware
reset (10_state.md section 2; decision D2). -/
def Obligations.ReadyFollowsConstruct : Prop :=
  ∀ s t : State, step s = .next t → t.ready ≠ s.ready →
    (s.rstIn.head? = some 0 ∧ t.ready = false) ∨
    (s.seq = .rest ∧ (∃ r reqs, s.opIn = r :: reqs ∧ r.op = 0) ∧ t.seq = .conF ∧ t.ready = false) ∨
    (s.seq = .conSmp .p2 ∧ t.ready = true ∧ t.seq = .rest ∧ t.answers = s.answers ++ [.ok .nothing])

/-- With no hardware reset due, a step changes a data register, a transient register or PEND only where the spec lists
the write: HS at TX.RH and TX.RC, BC at TX.R3, CF at TX.R1, their valid bits there and, to 0, at CONSTRUCT's acceptance;
CIDX and WSUM in the data phase; CBUF and CLEN at TRANSMIT's acceptance; RBUF, RCNT and PREV in RECEIVE; VBUF at the
version read; PEND where the protected section enters recovery, where recovery comes to REST, and, to empty, at
TRANSMIT's acceptance (10_state.md section 10 and the rules it names; 60_exceptions.md section 1). That the transient
registers keep their values where no rule writes them, at REST too, is the model's choice (logs 20 and 22), and that HS,
BC and CF keep their bits under a cleared valid bit is log 23's. -/
def Obligations.DataRegistersAreWrittenOnlyWhereListed : Prop :=
  ∀ s t : State, s.noResetDue → step s = .next t →
    (t.hs ≠ s.hs → s.seq = .txRH ∨ s.seq = .txRC) ∧
    (t.bc ≠ s.bc → s.seq = .txR3) ∧
    (t.cf ≠ s.cf → s.seq = .txR1) ∧
    (t.hsv ≠ s.hsv → s.seq = .txRH ∨ s.seq = .txRC ∨ s.seq = .rest ∧ t.seq = .conF ∧ t.hsv = false) ∧
    (t.bcv ≠ s.bcv → s.seq = .txR3 ∨ s.seq = .rest ∧ t.seq = .conF ∧ t.bcv = false) ∧
    (t.cfv ≠ s.cfv → s.seq = .txR1 ∨ s.seq = .rest ∧ t.seq = .conF ∧ t.cfv = false) ∧
    (t.cidx ≠ s.cidx → s.seq = .txP2 ∨ s.seq = .txRC) ∧
    (t.wsum ≠ s.wsum → s.seq = .txP2 ∨ s.seq = .txWC) ∧
    (t.cbuf ≠ s.cbuf ∨ t.clen ≠ s.clen → s.seq = .rest ∧ t.seq = .txP1) ∧
    (t.rbuf ≠ s.rbuf ∨ t.rcnt ≠ s.rcnt → s.seq = .rcvR ∨ s.seq = .rest ∧ t.seq = .rcvP1) ∧
    (t.prev ≠ s.prev → s.seq = .rcvR) ∧
    (t.vbuf ≠ s.vbuf → s.seq = .fwr .r ∨ s.seq = .conFwr .r) ∧
    (t.pend ≠ s.pend →
      (s.seq ∈ guardedPositions ∧ t.seq = .txRecRst .p1 ∧ t.pend.isSome = true) ∨
      (s.seq ∈ recoveryPositions ∧ t.seq = .rest ∧ t.pend = none) ∨
      (s.seq = .rest ∧ t.seq = .txP1 ∧ t.pend = none)) ∧
    t.cfg = s.cfg

/-- No rule reads MODE: two states that differ in MODE alone take steps that differ in MODE alone, and stop alike
(10_state.md section 2). -/
def Obligations.ModeDecidesNothing : Prop :=
  ∀ (s : State) (m : Mode),
    (∀ t, step s = .next t → ∃ m', step { s with mode := m } = .next { t with mode := m' }) ∧
    (∀ e, step s = .fault e → step { s with mode := m } = .fault e) ∧
    (∀ e, step s = .refused e → step { s with mode := m } = .refused e)

/-- No rule reads HS: two states that differ in HS alone take steps that differ in HS alone, and stop alike (10_state.md
section 3). -/
def Obligations.HandshakeDecidesNothing : Prop :=
  ∀ (s : State) (h : Byte),
    (∀ t, step s = .next t → ∃ h', step { s with hs := h } = .next { t with hs := h' }) ∧
    (∀ e, step s = .fault e → step { s with hs := h } = .fault e) ∧
    (∀ e, step s = .refused e → step { s with hs := h } = .refused e)

/-- Answers: a step delivers at most one, and exactly when SEQ comes to REST from an operation, or a request is refused
at REST (its request taken); a step that delivers none leaves every earlier answer (30_encoding.md section 1;
70_reset_and_hazards.md section 4). -/
def Obligations.EveryOperationEndsInOneAnswer : Prop :=
  ∀ s t : State, s.noResetDue → step s = .next t →
    (s.seq ≠ .rest → t.seq = .rest → ∃ a, t.answers = s.answers ++ [a]) ∧
    (s.seq ≠ .rest → t.seq ≠ .rest → t.answers = s.answers) ∧
    (s.seq = .rest → t.seq ≠ .rest → t.answers = s.answers ∧ t.opIn = s.opIn.tail) ∧
    (s.seq = .rest → t.seq = .rest → t = { s with rstIn := countDown s.rstIn } ∨
      ∃ e, t = { s with
        opIn := s.opIn.tail, answers := s.answers ++ [.fail e], rstIn := countDown s.rstIn })

/-- A step performs at most one transaction, and what it writes is one of the seven command strings or a slice of CBUF
at TX.WC (00_scope.md section 7; 30_encoding.md section 3). -/
def Obligations.OneTransactionAStepAndOnlyTableStrings : Prop :=
  ∀ s t : State, step s = .next t →
    t.trace = s.trace ∨ ∃ ev, t.trace = s.trace ++ [ev] ∧
      ∀ bs, ((∃ n, ev = .write bs n) ∨ ∃ x, ev = .writeFault bs x) →
        (∃ c q, (c, bs) ∈ commandStrings ∧ (c, s.seq, q) ∈ commandSites) ∨ (s.seq = .txWC ∧ bs = s.slice)

/-- The invariant holds after hardware reset. -/
def Obligations.InvariantHoldsAtReset : Prop := State.reset.Inv

/-- Every step keeps the invariant: the buffers' lengths, PEND only in recovery, READY with the operation, the code's
shape and CIDX's alignment in the data phase, the right count before the report, no terminator before the last byte
read, the valid bits, MODE by position (10_state.md; 43_transmit.md; 42_receive.md; 41_mode_transitions.md; with log 8's
values at hardware reset and log 22's at REST). -/
def Obligations.StepKeepsTheInvariant : Prop :=
  ∀ s t : State, s.Inv → step s = .next t → t.Inv

/-- The sequencer never stops by itself: in every state that meets the invariant, whatever the host and the channel do,
a step answers a next state (RBUF unbounded, the default). That a hang and an idle REST are steps is the model's choice
(logs 2 and 3). -/
def Obligations.SequencerNeverStops : Prop :=
  ∀ s : State, s.Inv → s.cfg.rbufMax = none → ∃ t, step s = .next t
end

