-- ==== Sys2Proof/Laws/State.lean ====
section
/-! SUPPORT. Sys2Proof/Laws/State.lean: one lemma per field per named update of the state, true by unfolding, so that a
proof never unfolds a record update; and the canonical form of the buffers. -/

namespace Sys2Proof.Machine

variable (s : State)

/-! ### log -/

@[simp] theorem State.log_cfg (e : Event) : (s.log e).cfg = s.cfg := rfl
@[simp] theorem State.log_mode (e : Event) : (s.log e).mode = s.mode := rfl
@[simp] theorem State.log_ready (e : Event) : (s.log e).ready = s.ready := rfl
@[simp] theorem State.log_hs (e : Event) : (s.log e).hs = s.hs := rfl
@[simp] theorem State.log_hsv (e : Event) : (s.log e).hsv = s.hsv := rfl
@[simp] theorem State.log_bc (e : Event) : (s.log e).bc = s.bc := rfl
@[simp] theorem State.log_bcv (e : Event) : (s.log e).bcv = s.bcv := rfl
@[simp] theorem State.log_cf (e : Event) : (s.log e).cf = s.cf := rfl
@[simp] theorem State.log_cfv (e : Event) : (s.log e).cfv = s.cfv := rfl
@[simp] theorem State.log_seq (e : Event) : (s.log e).seq = s.seq := rfl
@[simp] theorem State.log_cbuf (e : Event) : (s.log e).cbuf = s.cbuf := rfl
@[simp] theorem State.log_clen (e : Event) : (s.log e).clen = s.clen := rfl
@[simp] theorem State.log_cidx (e : Event) : (s.log e).cidx = s.cidx := rfl
@[simp] theorem State.log_wsum (e : Event) : (s.log e).wsum = s.wsum := rfl
@[simp] theorem State.log_pend (e : Event) : (s.log e).pend = s.pend := rfl
@[simp] theorem State.log_rbuf (e : Event) : (s.log e).rbuf = s.rbuf := rfl
@[simp] theorem State.log_rcnt (e : Event) : (s.log e).rcnt = s.rcnt := rfl
@[simp] theorem State.log_prev (e : Event) : (s.log e).prev = s.prev := rfl
@[simp] theorem State.log_vbuf (e : Event) : (s.log e).vbuf = s.vbuf := rfl
@[simp] theorem State.log_opIn (e : Event) : (s.log e).opIn = s.opIn := rfl
@[simp] theorem State.log_answers (e : Event) : (s.log e).answers = s.answers := rfl
@[simp] theorem State.log_outAns (e : Event) : (s.log e).outAns = s.outAns := rfl
@[simp] theorem State.log_inEvents (e : Event) : (s.log e).inEvents = s.inEvents := rfl
@[simp] theorem State.log_trace (e : Event) : (s.log e).trace = s.trace ++ [e] := rfl
@[simp] theorem State.log_rstIn (e : Event) : (s.log e).rstIn = s.rstIn := rfl

/-! ### takeRequest -/

@[simp] theorem State.takeRequest_cfg : (s.takeRequest).cfg = s.cfg := rfl
@[simp] theorem State.takeRequest_mode : (s.takeRequest).mode = s.mode := rfl
@[simp] theorem State.takeRequest_ready : (s.takeRequest).ready = s.ready := rfl
@[simp] theorem State.takeRequest_hs : (s.takeRequest).hs = s.hs := rfl
@[simp] theorem State.takeRequest_hsv : (s.takeRequest).hsv = s.hsv := rfl
@[simp] theorem State.takeRequest_bc : (s.takeRequest).bc = s.bc := rfl
@[simp] theorem State.takeRequest_bcv : (s.takeRequest).bcv = s.bcv := rfl
@[simp] theorem State.takeRequest_cf : (s.takeRequest).cf = s.cf := rfl
@[simp] theorem State.takeRequest_cfv : (s.takeRequest).cfv = s.cfv := rfl
@[simp] theorem State.takeRequest_seq : (s.takeRequest).seq = s.seq := rfl
@[simp] theorem State.takeRequest_cbuf : (s.takeRequest).cbuf = s.cbuf := rfl
@[simp] theorem State.takeRequest_clen : (s.takeRequest).clen = s.clen := rfl
@[simp] theorem State.takeRequest_cidx : (s.takeRequest).cidx = s.cidx := rfl
@[simp] theorem State.takeRequest_wsum : (s.takeRequest).wsum = s.wsum := rfl
@[simp] theorem State.takeRequest_pend : (s.takeRequest).pend = s.pend := rfl
@[simp] theorem State.takeRequest_rbuf : (s.takeRequest).rbuf = s.rbuf := rfl
@[simp] theorem State.takeRequest_rcnt : (s.takeRequest).rcnt = s.rcnt := rfl
@[simp] theorem State.takeRequest_prev : (s.takeRequest).prev = s.prev := rfl
@[simp] theorem State.takeRequest_vbuf : (s.takeRequest).vbuf = s.vbuf := rfl
@[simp] theorem State.takeRequest_opIn : (s.takeRequest).opIn = s.opIn.tail := rfl
@[simp] theorem State.takeRequest_answers : (s.takeRequest).answers = s.answers := rfl
@[simp] theorem State.takeRequest_outAns : (s.takeRequest).outAns = s.outAns := rfl
@[simp] theorem State.takeRequest_inEvents : (s.takeRequest).inEvents = s.inEvents := rfl
@[simp] theorem State.takeRequest_trace : (s.takeRequest).trace = s.trace := rfl
@[simp] theorem State.takeRequest_rstIn : (s.takeRequest).rstIn = s.rstIn := rfl

/-! ### finish -/

@[simp] theorem State.finish_cfg (a : Answer) : (s.finish a).cfg = s.cfg := rfl
@[simp] theorem State.finish_mode (a : Answer) : (s.finish a).mode = s.mode := rfl
@[simp] theorem State.finish_ready (a : Answer) : (s.finish a).ready = s.ready := rfl
@[simp] theorem State.finish_hs (a : Answer) : (s.finish a).hs = s.hs := rfl
@[simp] theorem State.finish_hsv (a : Answer) : (s.finish a).hsv = s.hsv := rfl
@[simp] theorem State.finish_bc (a : Answer) : (s.finish a).bc = s.bc := rfl
@[simp] theorem State.finish_bcv (a : Answer) : (s.finish a).bcv = s.bcv := rfl
@[simp] theorem State.finish_cf (a : Answer) : (s.finish a).cf = s.cf := rfl
@[simp] theorem State.finish_cfv (a : Answer) : (s.finish a).cfv = s.cfv := rfl
@[simp] theorem State.finish_seq (a : Answer) : (s.finish a).seq = .rest := rfl
@[simp] theorem State.finish_cbuf (a : Answer) : (s.finish a).cbuf = s.cbuf := rfl
@[simp] theorem State.finish_clen (a : Answer) : (s.finish a).clen = s.clen := rfl
@[simp] theorem State.finish_cidx (a : Answer) : (s.finish a).cidx = s.cidx := rfl
@[simp] theorem State.finish_wsum (a : Answer) : (s.finish a).wsum = s.wsum := rfl
@[simp] theorem State.finish_pend (a : Answer) : (s.finish a).pend = s.pend := rfl
@[simp] theorem State.finish_rbuf (a : Answer) : (s.finish a).rbuf = s.rbuf := rfl
@[simp] theorem State.finish_rcnt (a : Answer) : (s.finish a).rcnt = s.rcnt := rfl
@[simp] theorem State.finish_prev (a : Answer) : (s.finish a).prev = s.prev := rfl
@[simp] theorem State.finish_vbuf (a : Answer) : (s.finish a).vbuf = s.vbuf := rfl
@[simp] theorem State.finish_opIn (a : Answer) : (s.finish a).opIn = s.opIn := rfl
@[simp] theorem State.finish_answers (a : Answer) : (s.finish a).answers = s.answers ++ [a] := rfl
@[simp] theorem State.finish_outAns (a : Answer) : (s.finish a).outAns = s.outAns := rfl
@[simp] theorem State.finish_inEvents (a : Answer) : (s.finish a).inEvents = s.inEvents := rfl
@[simp] theorem State.finish_trace (a : Answer) : (s.finish a).trace = s.trace := rfl
@[simp] theorem State.finish_rstIn (a : Answer) : (s.finish a).rstIn = s.rstIn := rfl

/-! ### assignMode -/

@[simp] theorem State.assignMode_cfg : (s.assignMode).cfg = s.cfg := rfl
@[simp] theorem State.assignMode_mode : (s.assignMode).mode = (s.seq.sets s.cfg).getD s.mode := rfl
@[simp] theorem State.assignMode_ready : (s.assignMode).ready = s.ready := rfl
@[simp] theorem State.assignMode_hs : (s.assignMode).hs = s.hs := rfl
@[simp] theorem State.assignMode_hsv : (s.assignMode).hsv = s.hsv := rfl
@[simp] theorem State.assignMode_bc : (s.assignMode).bc = s.bc := rfl
@[simp] theorem State.assignMode_bcv : (s.assignMode).bcv = s.bcv := rfl
@[simp] theorem State.assignMode_cf : (s.assignMode).cf = s.cf := rfl
@[simp] theorem State.assignMode_cfv : (s.assignMode).cfv = s.cfv := rfl
@[simp] theorem State.assignMode_seq : (s.assignMode).seq = s.seq := rfl
@[simp] theorem State.assignMode_cbuf : (s.assignMode).cbuf = s.cbuf := rfl
@[simp] theorem State.assignMode_clen : (s.assignMode).clen = s.clen := rfl
@[simp] theorem State.assignMode_cidx : (s.assignMode).cidx = s.cidx := rfl
@[simp] theorem State.assignMode_wsum : (s.assignMode).wsum = s.wsum := rfl
@[simp] theorem State.assignMode_pend : (s.assignMode).pend = s.pend := rfl
@[simp] theorem State.assignMode_rbuf : (s.assignMode).rbuf = s.rbuf := rfl
@[simp] theorem State.assignMode_rcnt : (s.assignMode).rcnt = s.rcnt := rfl
@[simp] theorem State.assignMode_prev : (s.assignMode).prev = s.prev := rfl
@[simp] theorem State.assignMode_vbuf : (s.assignMode).vbuf = s.vbuf := rfl
@[simp] theorem State.assignMode_opIn : (s.assignMode).opIn = s.opIn := rfl
@[simp] theorem State.assignMode_answers : (s.assignMode).answers = s.answers := rfl
@[simp] theorem State.assignMode_outAns : (s.assignMode).outAns = s.outAns := rfl
@[simp] theorem State.assignMode_inEvents : (s.assignMode).inEvents = s.inEvents := rfl
@[simp] theorem State.assignMode_trace : (s.assignMode).trace = s.trace := rfl
@[simp] theorem State.assignMode_rstIn : (s.assignMode).rstIn = s.rstIn := rfl

/-! ### advance -/

@[simp] theorem State.advance_cfg : (s.advance).cfg = s.cfg := rfl
@[simp] theorem State.advance_mode : (s.advance).mode = (s.seq.sets s.cfg).getD s.mode := rfl
@[simp] theorem State.advance_ready : (s.advance).ready = s.ready := rfl
@[simp] theorem State.advance_hs : (s.advance).hs = s.hs := rfl
@[simp] theorem State.advance_hsv : (s.advance).hsv = s.hsv := rfl
@[simp] theorem State.advance_bc : (s.advance).bc = s.bc := rfl
@[simp] theorem State.advance_bcv : (s.advance).bcv = s.bcv := rfl
@[simp] theorem State.advance_cf : (s.advance).cf = s.cf := rfl
@[simp] theorem State.advance_cfv : (s.advance).cfv = s.cfv := rfl
@[simp] theorem State.advance_seq : (s.advance).seq = s.seq.next := rfl
@[simp] theorem State.advance_cbuf : (s.advance).cbuf = s.cbuf := rfl
@[simp] theorem State.advance_clen : (s.advance).clen = s.clen := rfl
@[simp] theorem State.advance_cidx : (s.advance).cidx = s.cidx := rfl
@[simp] theorem State.advance_wsum : (s.advance).wsum = s.wsum := rfl
@[simp] theorem State.advance_pend : (s.advance).pend = s.pend := rfl
@[simp] theorem State.advance_rbuf : (s.advance).rbuf = s.rbuf := rfl
@[simp] theorem State.advance_rcnt : (s.advance).rcnt = s.rcnt := rfl
@[simp] theorem State.advance_prev : (s.advance).prev = s.prev := rfl
@[simp] theorem State.advance_vbuf : (s.advance).vbuf = s.vbuf := rfl
@[simp] theorem State.advance_opIn : (s.advance).opIn = s.opIn := rfl
@[simp] theorem State.advance_answers : (s.advance).answers = s.answers := rfl
@[simp] theorem State.advance_outAns : (s.advance).outAns = s.outAns := rfl
@[simp] theorem State.advance_inEvents : (s.advance).inEvents = s.inEvents := rfl
@[simp] theorem State.advance_trace : (s.advance).trace = s.trace := rfl
@[simp] theorem State.advance_rstIn : (s.advance).rstIn = s.rstIn := rfl

/-! ### loadCode -/

@[simp] theorem State.loadCode_cfg (bs : List Byte) : (s.loadCode bs).cfg = s.cfg := rfl
@[simp] theorem State.loadCode_mode (bs : List Byte) : (s.loadCode bs).mode = s.mode := rfl
@[simp] theorem State.loadCode_ready (bs : List Byte) : (s.loadCode bs).ready = s.ready := rfl
@[simp] theorem State.loadCode_hs (bs : List Byte) : (s.loadCode bs).hs = s.hs := rfl
@[simp] theorem State.loadCode_hsv (bs : List Byte) : (s.loadCode bs).hsv = s.hsv := rfl
@[simp] theorem State.loadCode_bc (bs : List Byte) : (s.loadCode bs).bc = s.bc := rfl
@[simp] theorem State.loadCode_bcv (bs : List Byte) : (s.loadCode bs).bcv = s.bcv := rfl
@[simp] theorem State.loadCode_cf (bs : List Byte) : (s.loadCode bs).cf = s.cf := rfl
@[simp] theorem State.loadCode_cfv (bs : List Byte) : (s.loadCode bs).cfv = s.cfv := rfl
@[simp] theorem State.loadCode_seq (bs : List Byte) : (s.loadCode bs).seq = s.seq := rfl
@[simp] theorem State.loadCode_cbuf (bs : List Byte) : (s.loadCode bs).cbuf = bs := rfl
@[simp] theorem State.loadCode_clen (bs : List Byte) : (s.loadCode bs).clen = bs.length := rfl
@[simp] theorem State.loadCode_cidx (bs : List Byte) : (s.loadCode bs).cidx = s.cidx := rfl
@[simp] theorem State.loadCode_wsum (bs : List Byte) : (s.loadCode bs).wsum = s.wsum := rfl
@[simp] theorem State.loadCode_pend (bs : List Byte) : (s.loadCode bs).pend = s.pend := rfl
@[simp] theorem State.loadCode_rbuf (bs : List Byte) : (s.loadCode bs).rbuf = s.rbuf := rfl
@[simp] theorem State.loadCode_rcnt (bs : List Byte) : (s.loadCode bs).rcnt = s.rcnt := rfl
@[simp] theorem State.loadCode_prev (bs : List Byte) : (s.loadCode bs).prev = s.prev := rfl
@[simp] theorem State.loadCode_vbuf (bs : List Byte) : (s.loadCode bs).vbuf = s.vbuf := rfl
@[simp] theorem State.loadCode_opIn (bs : List Byte) : (s.loadCode bs).opIn = s.opIn := rfl
@[simp] theorem State.loadCode_answers (bs : List Byte) : (s.loadCode bs).answers = s.answers := rfl
@[simp] theorem State.loadCode_outAns (bs : List Byte) : (s.loadCode bs).outAns = s.outAns := rfl
@[simp] theorem State.loadCode_inEvents (bs : List Byte) : (s.loadCode bs).inEvents = s.inEvents := rfl
@[simp] theorem State.loadCode_trace (bs : List Byte) : (s.loadCode bs).trace = s.trace := rfl
@[simp] theorem State.loadCode_rstIn (bs : List Byte) : (s.loadCode bs).rstIn = s.rstIn := rfl

/-! ### clearReceived -/

@[simp] theorem State.clearReceived_cfg : (s.clearReceived).cfg = s.cfg := rfl
@[simp] theorem State.clearReceived_mode : (s.clearReceived).mode = s.mode := rfl
@[simp] theorem State.clearReceived_ready : (s.clearReceived).ready = s.ready := rfl
@[simp] theorem State.clearReceived_hs : (s.clearReceived).hs = s.hs := rfl
@[simp] theorem State.clearReceived_hsv : (s.clearReceived).hsv = s.hsv := rfl
@[simp] theorem State.clearReceived_bc : (s.clearReceived).bc = s.bc := rfl
@[simp] theorem State.clearReceived_bcv : (s.clearReceived).bcv = s.bcv := rfl
@[simp] theorem State.clearReceived_cf : (s.clearReceived).cf = s.cf := rfl
@[simp] theorem State.clearReceived_cfv : (s.clearReceived).cfv = s.cfv := rfl
@[simp] theorem State.clearReceived_seq : (s.clearReceived).seq = s.seq := rfl
@[simp] theorem State.clearReceived_cbuf : (s.clearReceived).cbuf = s.cbuf := rfl
@[simp] theorem State.clearReceived_clen : (s.clearReceived).clen = s.clen := rfl
@[simp] theorem State.clearReceived_cidx : (s.clearReceived).cidx = s.cidx := rfl
@[simp] theorem State.clearReceived_wsum : (s.clearReceived).wsum = s.wsum := rfl
@[simp] theorem State.clearReceived_pend : (s.clearReceived).pend = s.pend := rfl
@[simp] theorem State.clearReceived_rbuf : (s.clearReceived).rbuf = [] := rfl
@[simp] theorem State.clearReceived_rcnt : (s.clearReceived).rcnt = 0 := rfl
@[simp] theorem State.clearReceived_prev : (s.clearReceived).prev = s.prev := rfl
@[simp] theorem State.clearReceived_vbuf : (s.clearReceived).vbuf = s.vbuf := rfl
@[simp] theorem State.clearReceived_opIn : (s.clearReceived).opIn = s.opIn := rfl
@[simp] theorem State.clearReceived_answers : (s.clearReceived).answers = s.answers := rfl
@[simp] theorem State.clearReceived_outAns : (s.clearReceived).outAns = s.outAns := rfl
@[simp] theorem State.clearReceived_inEvents : (s.clearReceived).inEvents = s.inEvents := rfl
@[simp] theorem State.clearReceived_trace : (s.clearReceived).trace = s.trace := rfl
@[simp] theorem State.clearReceived_rstIn : (s.clearReceived).rstIn = s.rstIn := rfl

/-! ### appendReceived -/

@[simp] theorem State.appendReceived_cfg (b : Byte) : (s.appendReceived b).cfg = s.cfg := rfl
@[simp] theorem State.appendReceived_mode (b : Byte) : (s.appendReceived b).mode = s.mode := rfl
@[simp] theorem State.appendReceived_ready (b : Byte) : (s.appendReceived b).ready = s.ready := rfl
@[simp] theorem State.appendReceived_hs (b : Byte) : (s.appendReceived b).hs = s.hs := rfl
@[simp] theorem State.appendReceived_hsv (b : Byte) : (s.appendReceived b).hsv = s.hsv := rfl
@[simp] theorem State.appendReceived_bc (b : Byte) : (s.appendReceived b).bc = s.bc := rfl
@[simp] theorem State.appendReceived_bcv (b : Byte) : (s.appendReceived b).bcv = s.bcv := rfl
@[simp] theorem State.appendReceived_cf (b : Byte) : (s.appendReceived b).cf = s.cf := rfl
@[simp] theorem State.appendReceived_cfv (b : Byte) : (s.appendReceived b).cfv = s.cfv := rfl
@[simp] theorem State.appendReceived_seq (b : Byte) : (s.appendReceived b).seq = s.seq := rfl
@[simp] theorem State.appendReceived_cbuf (b : Byte) : (s.appendReceived b).cbuf = s.cbuf := rfl
@[simp] theorem State.appendReceived_clen (b : Byte) : (s.appendReceived b).clen = s.clen := rfl
@[simp] theorem State.appendReceived_cidx (b : Byte) : (s.appendReceived b).cidx = s.cidx := rfl
@[simp] theorem State.appendReceived_wsum (b : Byte) : (s.appendReceived b).wsum = s.wsum := rfl
@[simp] theorem State.appendReceived_pend (b : Byte) : (s.appendReceived b).pend = s.pend := rfl
@[simp] theorem State.appendReceived_rbuf (b : Byte) : (s.appendReceived b).rbuf = s.rbuf ++ [b] := rfl
@[simp] theorem State.appendReceived_rcnt (b : Byte) : (s.appendReceived b).rcnt = s.rcnt + 1 := rfl
@[simp] theorem State.appendReceived_prev (b : Byte) : (s.appendReceived b).prev = b := rfl
@[simp] theorem State.appendReceived_vbuf (b : Byte) : (s.appendReceived b).vbuf = s.vbuf := rfl
@[simp] theorem State.appendReceived_opIn (b : Byte) : (s.appendReceived b).opIn = s.opIn := rfl
@[simp] theorem State.appendReceived_answers (b : Byte) : (s.appendReceived b).answers = s.answers := rfl
@[simp] theorem State.appendReceived_outAns (b : Byte) : (s.appendReceived b).outAns = s.outAns := rfl
@[simp] theorem State.appendReceived_inEvents (b : Byte) : (s.appendReceived b).inEvents = s.inEvents := rfl
@[simp] theorem State.appendReceived_trace (b : Byte) : (s.appendReceived b).trace = s.trace := rfl
@[simp] theorem State.appendReceived_rstIn (b : Byte) : (s.appendReceived b).rstIn = s.rstIn := rfl

/-! ### tick -/

@[simp] theorem State.tick_cfg : (s.tick).cfg = s.cfg := rfl
@[simp] theorem State.tick_mode : (s.tick).mode = s.mode := rfl
@[simp] theorem State.tick_ready : (s.tick).ready = s.ready := rfl
@[simp] theorem State.tick_hs : (s.tick).hs = s.hs := rfl
@[simp] theorem State.tick_hsv : (s.tick).hsv = s.hsv := rfl
@[simp] theorem State.tick_bc : (s.tick).bc = s.bc := rfl
@[simp] theorem State.tick_bcv : (s.tick).bcv = s.bcv := rfl
@[simp] theorem State.tick_cf : (s.tick).cf = s.cf := rfl
@[simp] theorem State.tick_cfv : (s.tick).cfv = s.cfv := rfl
@[simp] theorem State.tick_seq : (s.tick).seq = s.seq := rfl
@[simp] theorem State.tick_cbuf : (s.tick).cbuf = s.cbuf := rfl
@[simp] theorem State.tick_clen : (s.tick).clen = s.clen := rfl
@[simp] theorem State.tick_cidx : (s.tick).cidx = s.cidx := rfl
@[simp] theorem State.tick_wsum : (s.tick).wsum = s.wsum := rfl
@[simp] theorem State.tick_pend : (s.tick).pend = s.pend := rfl
@[simp] theorem State.tick_rbuf : (s.tick).rbuf = s.rbuf := rfl
@[simp] theorem State.tick_rcnt : (s.tick).rcnt = s.rcnt := rfl
@[simp] theorem State.tick_prev : (s.tick).prev = s.prev := rfl
@[simp] theorem State.tick_vbuf : (s.tick).vbuf = s.vbuf := rfl
@[simp] theorem State.tick_opIn : (s.tick).opIn = s.opIn := rfl
@[simp] theorem State.tick_answers : (s.tick).answers = s.answers := rfl
@[simp] theorem State.tick_outAns : (s.tick).outAns = s.outAns := rfl
@[simp] theorem State.tick_inEvents : (s.tick).inEvents = s.inEvents := rfl
@[simp] theorem State.tick_trace : (s.tick).trace = s.trace := rfl
@[simp] theorem State.tick_rstIn : (s.tick).rstIn = countDown s.rstIn := rfl

/-! ### acceptReset -/

@[simp] theorem State.acceptReset_cfg : (s.acceptReset).cfg = s.cfg := rfl
@[simp] theorem State.acceptReset_mode : (s.acceptReset).mode = .idle := rfl
@[simp] theorem State.acceptReset_ready : (s.acceptReset).ready = false := rfl
@[simp] theorem State.acceptReset_hs : (s.acceptReset).hs = 0 := rfl
@[simp] theorem State.acceptReset_hsv : (s.acceptReset).hsv = false := rfl
@[simp] theorem State.acceptReset_bc : (s.acceptReset).bc = 0 := rfl
@[simp] theorem State.acceptReset_bcv : (s.acceptReset).bcv = false := rfl
@[simp] theorem State.acceptReset_cf : (s.acceptReset).cf = 0 := rfl
@[simp] theorem State.acceptReset_cfv : (s.acceptReset).cfv = false := rfl
@[simp] theorem State.acceptReset_seq : (s.acceptReset).seq = .rest := rfl
@[simp] theorem State.acceptReset_cbuf : (s.acceptReset).cbuf = [] := rfl
@[simp] theorem State.acceptReset_clen : (s.acceptReset).clen = 0 := rfl
@[simp] theorem State.acceptReset_cidx : (s.acceptReset).cidx = 0 := rfl
@[simp] theorem State.acceptReset_wsum : (s.acceptReset).wsum = 0 := rfl
@[simp] theorem State.acceptReset_pend : (s.acceptReset).pend = none := rfl
@[simp] theorem State.acceptReset_rbuf : (s.acceptReset).rbuf = [] := rfl
@[simp] theorem State.acceptReset_rcnt : (s.acceptReset).rcnt = 0 := rfl
@[simp] theorem State.acceptReset_prev : (s.acceptReset).prev = 0 := rfl
@[simp] theorem State.acceptReset_vbuf : (s.acceptReset).vbuf = [0, 0, 0, 0] := rfl
@[simp] theorem State.acceptReset_opIn : (s.acceptReset).opIn = s.opIn := rfl
@[simp] theorem State.acceptReset_answers : (s.acceptReset).answers = s.answers := rfl
@[simp] theorem State.acceptReset_outAns : (s.acceptReset).outAns = s.outAns := rfl
@[simp] theorem State.acceptReset_inEvents : (s.acceptReset).inEvents = s.inEvents := rfl
@[simp] theorem State.acceptReset_trace : (s.acceptReset).trace = s.trace := rfl
@[simp] theorem State.acceptReset_rstIn : (s.acceptReset).rstIn = s.rstIn.tail := rfl

/-! ### raise -/

@[simp] theorem raise_cfg (e : Exn) : (raise e s).cfg = s.cfg := by
  unfold raise; split <;> rfl
@[simp] theorem raise_mode (e : Exn) : (raise e s).mode = s.mode := by
  unfold raise; split <;> rfl
@[simp] theorem raise_ready (e : Exn) : (raise e s).ready = s.ready := by
  unfold raise; split <;> rfl
@[simp] theorem raise_hs (e : Exn) : (raise e s).hs = s.hs := by
  unfold raise; split <;> rfl
@[simp] theorem raise_hsv (e : Exn) : (raise e s).hsv = s.hsv := by
  unfold raise; split <;> rfl
@[simp] theorem raise_bc (e : Exn) : (raise e s).bc = s.bc := by
  unfold raise; split <;> rfl
@[simp] theorem raise_bcv (e : Exn) : (raise e s).bcv = s.bcv := by
  unfold raise; split <;> rfl
@[simp] theorem raise_cf (e : Exn) : (raise e s).cf = s.cf := by
  unfold raise; split <;> rfl
@[simp] theorem raise_cfv (e : Exn) : (raise e s).cfv = s.cfv := by
  unfold raise; split <;> rfl
@[simp] theorem raise_cbuf (e : Exn) : (raise e s).cbuf = s.cbuf := by
  unfold raise; split <;> rfl
@[simp] theorem raise_clen (e : Exn) : (raise e s).clen = s.clen := by
  unfold raise; split <;> rfl
@[simp] theorem raise_cidx (e : Exn) : (raise e s).cidx = s.cidx := by
  unfold raise; split <;> rfl
@[simp] theorem raise_wsum (e : Exn) : (raise e s).wsum = s.wsum := by
  unfold raise; split <;> rfl
@[simp] theorem raise_rbuf (e : Exn) : (raise e s).rbuf = s.rbuf := by
  unfold raise; split <;> rfl
@[simp] theorem raise_rcnt (e : Exn) : (raise e s).rcnt = s.rcnt := by
  unfold raise; split <;> rfl
@[simp] theorem raise_prev (e : Exn) : (raise e s).prev = s.prev := by
  unfold raise; split <;> rfl
@[simp] theorem raise_vbuf (e : Exn) : (raise e s).vbuf = s.vbuf := by
  unfold raise; split <;> rfl
@[simp] theorem raise_opIn (e : Exn) : (raise e s).opIn = s.opIn := by
  unfold raise; split <;> rfl
@[simp] theorem raise_outAns (e : Exn) : (raise e s).outAns = s.outAns := by
  unfold raise; split <;> rfl
@[simp] theorem raise_inEvents (e : Exn) : (raise e s).inEvents = s.inEvents := by
  unfold raise; split <;> rfl
@[simp] theorem raise_trace (e : Exn) : (raise e s).trace = s.trace := by
  unfold raise; split <;> rfl
@[simp] theorem raise_rstIn (e : Exn) : (raise e s).rstIn = s.rstIn := by
  unfold raise; split <;> rfl

/-- A failure in the protected section enters recovery with the failure saved (60_exceptions.md R216). -/
theorem raise_guarded (e : Exn) (h : s.seq.region = .guarded) :
    raise e s = { s with pend := some e, seq := .txRecRst .p1 } := by simp [raise, h]

/-- A failure in recovery abandons it, and is the answer (R219). -/
theorem raise_recovery (e : Exn) (h : s.seq.region = .recovery) :
    raise e s = { s with pend := none, seq := .rest, answers := s.answers ++ [.fail e] } := by
  simp [raise, h, State.finish]

/-- Any other failure is the operation's answer (R215). -/
theorem raise_plain (e : Exn) (h : s.seq.region = .plain) :
    raise e s = { s with seq := .rest, answers := s.answers ++ [.fail e] } := by simp [raise, h, State.finish]

/-! ### the buffers -/

theorem loadCode_keeps_wf (bs : List Byte) (h : Memory.wf s) : Memory.wf (s.loadCode bs) := ⟨rfl, h.2⟩

theorem clearReceived_keeps_wf (h : Memory.wf s) : Memory.wf s.clearReceived := ⟨h.1, rfl⟩

theorem appendReceived_keeps_wf (b : Byte) (h : Memory.wf s) : Memory.wf (s.appendReceived b) := by
  simpa [Memory.wf] using h

theorem raise_keeps_wf (e : Exn) (h : Memory.wf s) : Memory.wf (raise e s) := by simpa [Memory.wf] using h

theorem acceptReset_wf : Memory.wf s.acceptReset := ⟨rfl, rfl⟩

theorem reset_wf : Memory.wf State.reset := ⟨rfl, rfl⟩

end Sys2Proof.Machine
end

