-- ==== Sys2Proof/Laws/Ops.lean ====
section
/-! SUPPORT. Sys2Proof/Laws/Ops.lean: for each shared operation, what it answers in each case and one lemma that says
everything it can do, which a proof cites instead of unfolding it. -/

namespace Sys2Proof.Machine

/-! ### reading the incoming stream -/

/-- A read that is satisfied takes exactly the bytes at the head of the stream (20_memory.md R52). -/
theorem takeBytes_got_iff (k : Nat) (es rest : List InEvent) (bs : List Byte) :
    takeBytes k es = .got bs rest ↔ bs.length = k ∧ es = delivers bs ++ rest := by
  induction k generalizing es bs with
  | zero => cases bs <;> simp [takeBytes, delivers, eq_comm]
  | succ k ih =>
    match es with
    | [] => simp [takeBytes, delivers]; rintro h rfl; simp at h
    | .fault x :: es => cases bs <;> simp [takeBytes, delivers]
    | .byte b :: es =>
      simp only [takeBytes]
      cases h : takeBytes k es with
      | got cs r =>
        have := (ih es cs).mp
        cases bs with
        | nil => simp
        | cons c bs =>
          have hi := ih es bs
          simp only [h, Taken.got.injEq] at hi
          simp only [Taken.got.injEq, List.cons.injEq, List.length_cons, delivers, List.map_cons, List.cons_append,
            InEvent.byte.injEq, Nat.add_right_cancel_iff] at hi ⊢
          constructor
          · rintro ⟨⟨rfl, rfl⟩, rfl⟩
            have := hi.mp ⟨rfl, rfl⟩
            exact ⟨this.1, rfl, this.2⟩
          · rintro ⟨hl, rfl, he⟩
            have := hi.mpr ⟨hl, he⟩
            exact ⟨⟨rfl, this.1⟩, this.2⟩
      | faulted x r =>
        cases bs with
        | nil => simp
        | cons c bs =>
          have hi := ih es bs
          simp only [h, delivers] at hi
          simp only [delivers, List.map_cons, List.cons_append, List.cons.injEq, List.length_cons,
            Nat.add_right_cancel_iff]
          constructor
          · rintro ⟨⟩
          · rintro ⟨hl, -, he⟩; exact absurd (hi.mpr ⟨hl, he⟩) (by simp)
      | waiting =>
        cases bs with
        | nil => simp
        | cons c bs =>
          have hi := ih es bs
          simp only [h, delivers] at hi
          simp only [delivers, List.map_cons, List.cons_append, List.cons.injEq, List.length_cons,
            Nat.add_right_cancel_iff]
          constructor
          · rintro ⟨⟩
          · rintro ⟨hl, -, he⟩; exact absurd (hi.mpr ⟨hl, he⟩) (by simp)

/-- The bytes at the head of the stream satisfy a read of as many. -/
theorem takeBytes_delivers (bs : List Byte) (rest : List InEvent) :
    takeBytes bs.length (delivers bs ++ rest) = .got bs rest := (takeBytes_got_iff _ _ _ _).mpr ⟨rfl, rfl⟩

theorem takeBytes_length {k : Nat} {es rest : List InEvent} {bs : List Byte} (h : takeBytes k es = .got bs rest) :
    bs.length = k := ((takeBytes_got_iff _ _ _ _).mp h).1

/-- Fewer bytes than asked for, and no fault: the read is not satisfied (R52). -/
theorem takeBytes_short {k : Nat} {bs : List Byte} (h : bs.length < k) : takeBytes k (delivers bs) = .waiting := by
  induction bs generalizing k with
  | nil => cases k with
    | zero => simp at h
    | succ k => rfl
  | cons b bs ih => cases k with
    | zero => simp at h
    | succ k =>
      have := ih (k := k) (by simpa using h)
      simp only [delivers] at this
      simp [delivers, takeBytes, this]

/-! ### the CH transactions -/

variable {s t : State}

/-- A write with no answer yet leaves the machine where it is (R51; log 2). -/
theorem chWrite_waiting {bs : List Byte} {k : Nat → State → Out} (h : s.outAns = []) : chWrite bs k s = .next s := by
  simp [chWrite, h]

/-- A write answered with a count goes on with it (R51). -/
theorem chWrite_done {bs : List Byte} {k : Nat → State → Out} {n : Nat} {rest : List OutAnswer}
    (h : s.outAns = .done n :: rest) : chWrite bs k s = k n ({ s with outAns := rest }.log (.write bs n)) := by
  simp [chWrite, h]

/-- A write answered with a fault takes it at this position (R54). -/
theorem chWrite_fault {bs : List Byte} {k : Nat → State → Out} {x : FaultInfo} {rest : List OutAnswer}
    (h : s.outAns = .fault x :: rest) :
    chWrite bs k s = .next (raise (.channelFault x) ({ s with outAns := rest }.log (.writeFault bs x))) := by
  simp [chWrite, h]

/-- Everything a write can do. -/
theorem chWrite_cases {bs : List Byte} {k : Nat → State → Out} (h : chWrite bs k s = .next t) :
    (s.outAns = [] ∧ t = s) ∨
    (∃ n rest, s.outAns = .done n :: rest ∧ k n ({ s with outAns := rest }.log (.write bs n)) = .next t) ∨
    (∃ x rest, s.outAns = .fault x :: rest ∧
      t = raise (.channelFault x) ({ s with outAns := rest }.log (.writeFault bs x))) := by
  match ho : s.outAns with
  | [] => rw [chWrite_waiting ho] at h; exact .inl ⟨rfl, (Host.Outcome.next.inj h).symm⟩
  | .done n :: rest => rw [chWrite_done ho] at h; exact .inr (.inl ⟨n, rest, rfl, h⟩)
  | .fault x :: rest => rw [chWrite_fault ho] at h; exact .inr (.inr ⟨x, rest, rfl, (Host.Outcome.next.inj h).symm⟩)

/-- Everything a flush can do (R53). -/
theorem chFlush_cases {k : State → Out} (h : chFlush k s = .next t) :
    (s.outAns = [] ∧ t = s) ∨
    (∃ n rest, s.outAns = .done n :: rest ∧ k ({ s with outAns := rest }.log .flush) = .next t) ∨
    (∃ x rest, s.outAns = .fault x :: rest ∧
      t = raise (.channelFault x) ({ s with outAns := rest }.log (.flushFault x))) := by
  match ho : s.outAns with
  | [] => simp only [chFlush, ho] at h; exact .inl ⟨rfl, (Host.Outcome.next.inj h).symm⟩
  | .done n :: rest => simp only [chFlush, ho] at h; exact .inr (.inl ⟨n, rest, rfl, h⟩)
  | .fault x :: rest =>
    simp only [chFlush, ho] at h; exact .inr (.inr ⟨x, rest, rfl, (Host.Outcome.next.inj h).symm⟩)

/-- A read that the stream satisfies goes on with its bytes (R52). -/
theorem chRead_got {k : Nat} {done : List Byte → State → Out} {bs : List Byte} {rest : List InEvent}
    (hk : bs.length = k) (h : s.inEvents = delivers bs ++ rest) :
    chRead k done s = done bs ({ s with inEvents := rest }.log (.read k bs)) := by
  subst hk; simp [chRead, h, takeBytes_delivers]

/-- An unsatisfied read leaves the machine where it is (60_exceptions.md R221; log 2). -/
theorem chRead_waiting {k : Nat} {done : List Byte → State → Out} (h : takeBytes k s.inEvents = .waiting) :
    chRead k done s = .next s := by simp [chRead, h]

/-- Everything a read can do. -/
theorem chRead_cases {k : Nat} {done : List Byte → State → Out} (h : chRead k done s = .next t) :
    t = s ∨
    (∃ bs rest, bs.length = k ∧ s.inEvents = delivers bs ++ rest ∧
      done bs ({ s with inEvents := rest }.log (.read k bs)) = .next t) ∨
    (∃ x rest, t = raise (.channelFault x) ({ s with inEvents := rest }.log (.readFault k x))) := by
  unfold chRead at h
  split at h
  · exact .inl (Host.Outcome.next.inj h).symm
  · rename_i bs rest hg
    obtain ⟨hl, he⟩ := (takeBytes_got_iff _ _ _ _).mp hg
    exact .inr (.inl ⟨bs, rest, hl, he, h⟩)
  · rename_i x rest _
    exact .inr (.inr ⟨x, rest, (Host.Outcome.next.inj h).symm⟩)

/-! ### acceptance -/

theorem atRest_rest {k : State → Out} (h : s.seq = .rest) : atRest k s = k s.takeRequest := by simp [atRest, h]

/-- While BUSY a host operation is refused by name (30_encoding.md R83; log 5). -/
theorem atRest_busy {k : State → Out} (h : s.seq ≠ .rest) : atRest k s = .refused .requestWhileBusy := by
  simp [atRest, h]

theorem ifReady_ready {k : State → Out} (h : s.ready = true) : ifReady k s = k s := by simp [ifReady, h]

/-- READY = 0: the request is refused with NotReady (R82 (2)). -/
theorem ifReady_unready {k : State → Out} (h : s.ready = false) : ifReady k s = .next (raise .notReady s) := by
  simp [ifReady, h]

/-- Everything acceptance can do. -/
theorem atRest_cases {k : State → Out} (h : atRest k s = .next t) : s.seq = .rest ∧ k s.takeRequest = .next t := by
  by_cases hs : s.seq = .rest
  · exact ⟨hs, by rwa [atRest_rest hs] at h⟩
  · rw [atRest_busy hs] at h; cases h

/-- Everything the READY check can do. -/
theorem ifReady_cases {k : State → Out} (h : ifReady k s = .next t) :
    (s.ready = true ∧ k s = .next t) ∨ (s.ready = false ∧ t = raise .notReady s) := by
  cases hr : s.ready
  · rw [ifReady_unready hr] at h; exact .inr ⟨rfl, (Host.Outcome.next.inj h).symm⟩
  · rw [ifReady_ready hr] at h; exact .inl ⟨rfl, h⟩

/-! ### the commands -/

/-- At a position that does not issue the command it is refused by name (R85; log 6). -/
theorem emitCommand_elsewhere {c : Instr} (h : s.seq.micro ≠ .command c) :
    emitCommand c s = .refused .commandOutOfPlace := by simp [emitCommand, h]

/-- At a position that issues it, one ChWrite of its bytes. -/
theorem emitCommand_here {c : Instr} (h : s.seq.micro = .command c) :
    emitCommand c s = chWrite c.wireBytes (fun _ t => .next t.advance) s := by simp [emitCommand, h]

/-- Everything a command can do. -/
theorem emitCommand_cases {c : Instr} (h : emitCommand c s = .next t) :
    s.seq.micro = .command c ∧
    ((s.outAns = [] ∧ t = s) ∨
     (∃ n rest, s.outAns = .done n :: rest ∧ t = ({ s with outAns := rest }.log (.write c.wireBytes n)).advance) ∨
     (∃ x rest, s.outAns = .fault x :: rest ∧
       t = raise (.channelFault x) ({ s with outAns := rest }.log (.writeFault c.wireBytes x)))) := by
  by_cases hm : s.seq.micro = .command c
  · rw [emitCommand_here hm] at h
    refine ⟨hm, ?_⟩
    rcases chWrite_cases h with h | ⟨n, rest, ho, hk⟩ | h
    · exact .inl h
    · exact .inr (.inl ⟨n, rest, ho, (Host.Outcome.next.inj hk).symm⟩)
    · exact .inr (.inr h)
  · rw [emitCommand_elsewhere hm] at h; cases h

end Sys2Proof.Machine
end

