-- ==== Sys2Proof/Laws/Positions.lean ====
section
/-! SUPPORT. Sys2Proof/Laws/Positions.lean: facts of the position tables, each decided over the list of all positions. -/

namespace Sys2Proof.Machine

theorem Rst.mem_all (q : Rst) : q ∈ Rst.all := by cases q <;> decide

theorem Smp.mem_all (m : Smp) : m ∈ Smp.all := by
  cases m with
  | rst q => exact List.mem_append_left _ (List.mem_map_of_mem (Rst.mem_all q))
  | _ => decide

theorem Fwr.mem_all (f : Fwr) : f ∈ Fwr.all := by
  cases f with
  | rst q => exact List.mem_append_left _ (List.mem_map_of_mem (Rst.mem_all q))
  | _ => decide

/-- Pos.all lists every value of SEQ. -/
theorem Pos.mem_all (p : Pos) : p ∈ Pos.all := by
  rw [Pos.all, List.mem_flatten]
  cases p with
  | conFwr f => exact ⟨_, by simp, List.mem_map_of_mem (Fwr.mem_all f)⟩
  | conSmp m => exact ⟨List.map Pos.conSmp Smp.all, by simp, List.mem_map_of_mem (Smp.mem_all m)⟩
  | fwr f => exact ⟨List.map Pos.fwr Fwr.all, by simp, List.mem_map_of_mem (Fwr.mem_all f)⟩
  | rst q => exact ⟨List.map Pos.rst Rst.all, by simp, List.mem_map_of_mem (Rst.mem_all q)⟩
  | smp m => exact ⟨List.map Pos.smp Smp.all, by simp, List.mem_map_of_mem (Smp.mem_all m)⟩
  | irmRst q => exact ⟨List.map Pos.irmRst Rst.all, by simp, List.mem_map_of_mem (Rst.mem_all q)⟩
  | rcvSmp m => exact ⟨List.map Pos.rcvSmp Smp.all, by simp, List.mem_map_of_mem (Smp.mem_all m)⟩
  | txSmp m => exact ⟨List.map Pos.txSmp Smp.all, by simp, List.mem_map_of_mem (Smp.mem_all m)⟩
  | txRecRst q => exact ⟨List.map Pos.txRecRst Rst.all, by simp, List.mem_map_of_mem (Rst.mem_all q)⟩
  | txRecSmp m => exact ⟨List.map Pos.txRecSmp Smp.all, by simp, List.mem_map_of_mem (Smp.mem_all m)⟩
  | _ => exact List.mem_flatten.mp (by decide)

/-- A fact of every listed position is a fact of every position. -/
theorem Pos.of_all {P : Pos → Prop} (h : ∀ p ∈ Pos.all, P p) (p : Pos) : P p := h p (Pos.mem_all p)

theorem Pos.micro_wait : ∀ p : Pos, p.micro = .wait → p = .rest := Pos.of_all (by decide)

theorem Pos.micro_flush : ∀ p : Pos, p.micro = .flush → p = .conF := Pos.of_all (by decide)

theorem Pos.micro_chunk : ∀ p : Pos, p.micro = .chunk → p = .txWC := Pos.of_all (by decide)

/-- The pauses that end an operation. -/
theorem Pos.pause_last : ∀ p : Pos, p.micro = .pause → p.next = .rest →
    p = .rst .p2 ∨ p = .smp .p2 ∨ p = .irmP ∨ p = .conSmp .p2 ∨ p = .rcvP2 ∨ p = .txSmp .p2 ∨ p = .txRecSmp .p2 :=
  Pos.of_all (by decide)

/-- A command position issues one of the seven commands (30_encoding.md R85). -/
theorem Pos.micro_command {c : Instr} (p : Pos) (h : p.micro = .command c) :
    c ∈ [Instr.cmdReset, .cmdVersion, .cmdSample, .cmdIr, .cmdTxHandshake, .cmdTxNotify, .cmdTxStart] := by
  have hall : ∀ p : Pos, p.micro ∈ [Micro.wait, .pause, .flush, .chunk, .read 1, .read 3, .read 4, .command .cmdReset,
      .command .cmdVersion, .command .cmdSample, .command .cmdIr, .command .cmdTxHandshake, .command .cmdTxNotify,
      .command .cmdTxStart] := Pos.of_all (by decide)
  have := hall p
  rw [h] at this
  simpa using this

end Sys2Proof.Machine
end

