-- ==== Sys2Proof/Laws/Step.lean ====
section
/-! SUPPORT. Sys2Proof/Laws/Step.lean: what one step is in each case (which position, which answer of the other side), and
`step_cases`, which says once everything a step can do; whole-machine facts are derived from it. -/

namespace Sys2Proof.Machine

variable {s t : State}

/-! ### hardware reset and the count to it -/

theorem step_due (h : s.resetDue = true) : step s = .next s.acceptReset := by simp [step, h]

theorem step_undue (h : s.resetDue = false) : step s = stepSequencer s.tick := by simp [step, h]

/-- With no hardware reset due, a step is one micro-operation of the sequencer, and the count to the next one moves. -/
theorem step_of_noResetDue (h : s.noResetDue) : step s = stepSequencer s.tick :=
  step_undue (by simpa [State.resetDue] using h)

/-- With no hardware reset to come, a step is one micro-operation of the sequencer. -/
theorem step_quiet (h : s.rstIn = []) : step s = stepSequencer s := by
  have ht : s.tick = s := by cases s; simp_all [State.tick, countDown]
  rw [step_undue (by simp [State.resetDue, h]), ht]

/-! ### the chunk -/

theorem chunk_length (s : State) :
    s.chunk.length = min (min (s.cidx + 32) s.clen - s.cidx) (s.cbuf.length - s.cidx) := by
  simp [State.chunk, chunkAt, Config.chunkMax]

theorem chunk_length_le (s : State) : s.chunk.length ≤ 32 := by rw [chunk_length]; omega

/-! ### what each position's step is -/

/-- The string a command position fetches decodes to that command. -/
theorem decode_of_micro {p : Pos} {c : Instr} (h : p.micro = .command c) :
    decode (encode c) = .ok c ∧ ∀ u, exec c u = emitCommand c u := by
  have := p.micro_command h
  simp only [List.mem_cons, List.not_mem_nil, or_false] at this
  rcases this with rfl | rfl | rfl | rfl | rfl | rfl | rfl <;> exact ⟨by decide, fun _ => rfl⟩

theorem stepSequencer_waits (hs : s.seq = .rest) (ho : s.opIn = []) : stepSequencer s = .next s := by
  simp [stepSequencer, fetch, microStep, hs, ho, Pos.micro]

theorem stepSequencer_request {r : Request} {rs : List Request} (hs : s.seq = .rest) (ho : s.opIn = r :: rs) :
    stepSequencer s = exec (decodeRequest r) s := by
  simp [stepSequencer, fetch, hs, ho, Pos.micro, decode]

theorem stepSequencer_command {c : Instr} (h : s.seq.micro = .command c) : stepSequencer s = emitCommand c s := by
  obtain ⟨hd, he⟩ := decode_of_micro h
  simp [stepSequencer, fetch, h, hd, he]

theorem stepSequencer_chunk (hs : s.seq = .txWC) (hne : s.chunk ≠ []) : stepSequencer s = execData s.chunk s := by
  have := chunk_length_le s
  simp [stepSequencer, fetch, hs, Pos.micro, decode, decodeChunk, hne, Config.chunkMax, this, exec]

theorem stepSequencer_chunk_empty (hs : s.seq = .txWC) (he : s.chunk = []) : stepSequencer s = .fault .emptyChunk := by
  simp [stepSequencer, fetch, hs, Pos.micro, decode, decodeChunk, he, rejected]

theorem stepSequencer_pause (h : s.seq.micro = .pause) : stepSequencer s = pauseDone (s.log .pause) := by
  simp [stepSequencer, fetch, h, microStep, pauseStep]

theorem stepSequencer_flush (h : s.seq.micro = .flush) : stepSequencer s = flushStep s := by
  simp [stepSequencer, fetch, h, microStep]

theorem stepSequencer_read {k : Nat} (h : s.seq.micro = .read k) : stepSequencer s = chRead k readDone s := by
  simp [stepSequencer, fetch, h, microStep, readStep]

theorem execData_here (hs : s.seq = .txWC) (hne : s.chunk ≠ []) :
    execData s.chunk s = chWrite s.chunk (fun n u => .next { u with wsum := u.wsum + n }.advance) s := by
  simp [execData, hs, hne]

/-! ### everything a step of the sequencer can do -/

/-- One step of the sequencer, case by case. `u` is the state with the answer taken and the transaction logged. -/
inductive Moves (s : State) : State → Prop where
  /-- nothing to take: no request at REST, or a transaction without its answer -/
  | waits : Moves s s
  /-- op = 7 (R82 (1)) -/
  | illegal (r : Request) (rs : List Request) (hs : s.seq = .rest) (ho : s.opIn = r :: rs) (hr : r.op = 7) :
      Moves s (s.takeRequest.finish (.fail .illegalOperation))
  /-- READY = 0 (R82 (2)) -/
  | notReady (r : Request) (rs : List Request) (hs : s.seq = .rest) (ho : s.opIn = r :: rs)
      (hr : r.op ≠ 0 ∧ r.op ≠ 7) (hn : s.ready = false) : Moves s (s.takeRequest.finish (.fail .notReady))
  /-- CONSTRUCT accepted (R113) -/
  | construct (r : Request) (rs : List Request) (hs : s.seq = .rest) (ho : s.opIn = r :: rs) (hr : r.op = 0) :
      Moves s { s.takeRequest with ready := false, hsv := false, bcv := false, cfv := false, seq := .conF }
  /-- FWREV, RESET, SAMPLE, IRMODE accepted (R82 (4)) -/
  | begins (r : Request) (rs : List Request) (first : Pos) (hs : s.seq = .rest) (ho : s.opIn = r :: rs)
      (hf : (r.op = 1 ∧ first = .fwr (.rst .p1)) ∨ (r.op = 2 ∧ first = .rst .p1) ∨
        (r.op = 3 ∧ first = .smp (.rst .p1)) ∨ (r.op = 4 ∧ first = .irmRst .p1))
      (hn : s.ready = true) : Moves s { s.takeRequest with seq := first }
  /-- RECEIVE accepted (R150) -/
  | receive (r : Request) (rs : List Request) (hs : s.seq = .rest) (ho : s.opIn = r :: rs) (hr : r.op = 5)
      (hn : s.ready = true) : Moves s { s.takeRequest.clearReceived with seq := .rcvP1 }
  /-- TRANSMIT refused (R170) -/
  | invalid (r : Request) (rs : List Request) (why : ArgReason) (hs : s.seq = .rest) (ho : s.opIn = r :: rs)
      (hr : r.op = 6) (hn : s.ready = true) (hc : checkCode s.cfg r.operand = some why) :
      Moves s (s.takeRequest.finish (.fail (.invalidArgument why)))
  /-- TRANSMIT accepted (R170) -/
  | transmit (r : Request) (rs : List Request) (hs : s.seq = .rest) (ho : s.opIn = r :: rs) (hr : r.op = 6)
      (hn : s.ready = true) (hc : checkCode s.cfg r.operand = none) :
      Moves s { s.takeRequest.loadCode (adjustCode r.operand) with pend := none, seq := .txP1 }
  /-- a write or a flush faults (R27 b) -/
  | outFault (x : FaultInfo) (rest : List OutAnswer) (e : Event) (hb : s.seq ≠ .rest)
      (hm : s.seq.micro ≠ .pause) (ho : s.outAns = .fault x :: rest)
      (he : (s.seq = .conF ∧ e = .flushFault x) ∨ (∃ c, s.seq.micro = .command c ∧ e = .writeFault c.wireBytes x) ∨
        (s.seq = .txWC ∧ s.chunk ≠ [] ∧ e = .writeFault s.chunk x)) :
      Moves s (raise (.channelFault x) ({ s with outAns := rest }.log e))
  /-- a command is written (R85) -/
  | command (c : Instr) (n : Nat) (rest : List OutAnswer) (hm : s.seq.micro = .command c)
      (ho : s.outAns = .done n :: rest) : Moves s ({ s with outAns := rest }.log (.write c.wireBytes n)).advance
  /-- a chunk is written (R175, R176) -/
  | chunk (n : Nat) (rest : List OutAnswer) (hs : s.seq = .txWC) (hne : s.chunk ≠ [])
      (ho : s.outAns = .done n :: rest) :
      Moves s { ({ s with outAns := rest }.log (.write s.chunk n)) with wsum := s.wsum + n, seq := .txRC }
  /-- the flush completes (R53) -/
  | flush (n : Nat) (rest : List OutAnswer) (hs : s.seq = .conF) (ho : s.outAns = .done n :: rest) :
      Moves s { ({ s with outAns := rest }.log .flush) with seq := .conFwr (.rst .p1) }
  /-- a pause that only moves on -/
  | pause (hm : s.seq.micro = .pause) (hn : s.seq.next ≠ .rest) (h2 : s.seq ≠ .txP2) : Moves s (s.log .pause).advance
  /-- the last pause of RESET, SAMPLE or IRMODE -/
  | endsPlain (hs : s.seq = .rst .p2 ∨ s.seq = .smp .p2 ∨ s.seq = .irmP) :
      Moves s ((s.log .pause).assignMode.finish (.ok .nothing))
  /-- the last pause of CONSTRUCT (R113) -/
  | constructs (hs : s.seq = .conSmp .p2) :
      Moves s ({ (s.log .pause) with mode := .sampling, ready := true }.finish (.ok .nothing))
  /-- the last pause of RECEIVE (R150) -/
  | receives (hs : s.seq = .rcvP2) : Moves s ((s.log .pause).finish (.ok (.bytes s.rbuf)))
  /-- TX.P2 (R174) -/
  | dataPhase (hs : s.seq = .txP2) : Moves s { (s.log .pause) with cidx := 0, wsum := 0, seq := .txWC }
  /-- the last pause of TRANSMIT's success exit (R180) -/
  | transmits (hs : s.seq = .txSmp .p2) :
      Moves s ({ (s.log .pause) with mode := .sampling }.finish (.ok (.report s.bc s.cf)))
  /-- the last pause of recovery (R217) -/
  | recovers (e : Exn) (hs : s.seq = .txRecSmp .p2) (hp : s.pend = some e) :
      Moves s ({ (s.log .pause) with mode := .sampling, pend := none }.finish (.fail e))
  /-- a read faults (R27 b) -/
  | readFault (k : Nat) (x : FaultInfo) (rest : List InEvent) (hm : s.seq.micro = .read k) :
      Moves s (raise (.channelFault x) ({ s with inEvents := rest }.log (.readFault k x)))
  /-- a read completes, and its position goes on with the bytes -/
  | read (k : Nat) (bs : List Byte) (rest : List InEvent) (hm : s.seq.micro = .read k) (hl : bs.length = k)
      (he : s.inEvents = delivers bs ++ rest) (t : State)
      (ht : readDone bs ({ s with inEvents := rest }.log (.read k bs)) = .next t) : Moves s t

theorem exec_request_moves {r : Request} {rs : List Request} (hs : s.seq = .rest) (ho : s.opIn = r :: rs)
    (h : exec (decodeRequest r) s = .next t) : Moves s t := by
  have hq : s.takeRequest.seq.region = .plain := by simp [hs, Pos.region]
  have hr : ∀ e, raise e s.takeRequest = s.takeRequest.finish (.fail e) := fun e => by unfold raise; rw [hq]
  obtain ⟨op, code⟩ := r
  have hop : op = 0 ∨ op = 1 ∨ op = 2 ∨ op = 3 ∨ op = 4 ∨ op = 5 ∨ op = 6 ∨ op = 7 := by
    clear h ho hr
    revert op; decide
  rcases hop with rfl | rfl | rfl | rfl | rfl | rfl | rfl | rfl <;> simp only [decodeRequest, exec] at h
  · obtain ⟨-, h⟩ := atRest_cases h
    cases h; exact .construct _ _ hs ho rfl
  · rcases ifReady_cases (atRest_cases h).2 with ⟨hn, h⟩ | ⟨hn, rfl⟩
    · cases h; exact .begins _ _ _ hs ho (.inl ⟨rfl, rfl⟩) (by simpa using hn)
    · rw [hr]; exact .notReady _ _ hs ho (by simp) (by simpa using hn)
  · rcases ifReady_cases (atRest_cases h).2 with ⟨hn, h⟩ | ⟨hn, rfl⟩
    · cases h; exact .begins _ _ _ hs ho (.inr (.inl ⟨rfl, rfl⟩)) (by simpa using hn)
    · rw [hr]; exact .notReady _ _ hs ho (by simp) (by simpa using hn)
  · rcases ifReady_cases (atRest_cases h).2 with ⟨hn, h⟩ | ⟨hn, rfl⟩
    · cases h; exact .begins _ _ _ hs ho (.inr (.inr (.inl ⟨rfl, rfl⟩))) (by simpa using hn)
    · rw [hr]; exact .notReady _ _ hs ho (by simp) (by simpa using hn)
  · rcases ifReady_cases (atRest_cases h).2 with ⟨hn, h⟩ | ⟨hn, rfl⟩
    · cases h; exact .begins _ _ _ hs ho (.inr (.inr (.inr ⟨rfl, rfl⟩))) (by simpa using hn)
    · rw [hr]; exact .notReady _ _ hs ho (by simp) (by simpa using hn)
  · rcases ifReady_cases (atRest_cases h).2 with ⟨hn, h⟩ | ⟨hn, rfl⟩
    · cases h; exact .receive _ _ hs ho rfl (by simpa using hn)
    · rw [hr]; exact .notReady _ _ hs ho (by simp) (by simpa using hn)
  · rcases ifReady_cases (atRest_cases h).2 with ⟨hn, h⟩ | ⟨hn, rfl⟩
    · cases hc : checkCode s.takeRequest.cfg code with
      | none => simp only [hc] at h; cases h; exact .transmit _ _ hs ho rfl (by simpa using hn) hc
      | some why =>
        simp only [hc] at h; cases h; rw [hr]; exact .invalid _ _ _ hs ho rfl (by simpa using hn) hc
    · rw [hr]; exact .notReady _ _ hs ho (by simp) (by simpa using hn)
  · obtain ⟨-, h⟩ := atRest_cases h
    cases h; rw [hr]; exact .illegal _ _ hs ho rfl

theorem pauseDone_moves (hm : s.seq.micro = .pause) (h : pauseDone (s.log .pause) = .next t) : Moves s t := by
  unfold pauseDone at h
  simp only [State.log_seq] at h
  split at h
  · rename_i hs; cases h; exact .endsPlain (.inl hs)
  · rename_i hs; cases h; exact .endsPlain (.inr (.inl hs))
  · rename_i hs; cases h; exact .endsPlain (.inr (.inr hs))
  · rename_i hs
    simp only [constructDone, State.assignMode, State.log_seq, State.log_cfg, hs, Pos.sets, Smp.sets, Option.getD_some,
      Host.Outcome.next.injEq] at h
    subst h; exact .constructs hs
  · rename_i hs; cases h; exact .receives hs
  · rename_i hs
    simp only [dataPhaseBegins, State.advance, State.assignMode, State.log_seq, State.log_cfg, hs, Pos.sets, Pos.next,
      Option.getD_none, Host.Outcome.next.injEq] at h
    subst h; exact .dataPhase hs
  · rename_i hs
    simp only [transmitDone, State.assignMode, State.log_seq, State.log_cfg, hs, Pos.sets, Smp.sets, Option.getD_some,
      Host.Outcome.next.injEq] at h
    subst h; exact .transmits hs
  · rename_i hs
    unfold returnFromRecovery at h
    split at h
    · rename_i e hp
      simp only [State.assignMode, State.log_seq, State.log_cfg, hs, Pos.sets, Smp.sets, Option.getD_some,
        Host.Outcome.next.injEq] at h
      subst h; exact .recovers e hs (by simpa using hp)
    · cases h
  · rename_i h1 h2 h3 h4 h5 h6 h7 h8
    cases h
    refine .pause hm ?_ h6
    intro hn
    rcases Pos.pause_last _ hm hn with h | h | h | h | h | h | h <;> simp_all

/-- Everything one step of the sequencer can do. -/
theorem stepSequencer_cases (h : stepSequencer s = .next t) : Moves s t := by
  cases hm : s.seq.micro with
  | wait =>
    have hs : s.seq = .rest := Pos.micro_wait _ hm
    cases ho : s.opIn with
    | nil => rw [stepSequencer_waits hs ho] at h; cases h; exact .waits
    | cons r rs => rw [stepSequencer_request hs ho] at h; exact exec_request_moves hs ho h
  | pause => rw [stepSequencer_pause hm] at h; exact pauseDone_moves hm h
  | flush =>
    have hs : s.seq = .conF := Pos.micro_flush _ hm
    rw [stepSequencer_flush hm] at h
    rcases chFlush_cases h with ⟨-, rfl⟩ | ⟨n, rest, ho, h⟩ | ⟨x, rest, ho, rfl⟩
    · exact .waits
    · simp only [State.advance, State.assignMode, State.log_seq, State.log_cfg, hs, Pos.sets, Pos.next,
        Option.getD_none, Host.Outcome.next.injEq] at h
      subst h; exact .flush n rest hs ho
    · exact .outFault x rest _ (by simp [hs]) (by simp [hm]) ho (.inl ⟨hs, rfl⟩)
  | command c =>
    rw [stepSequencer_command hm] at h
    obtain ⟨-, ⟨-, rfl⟩ | ⟨n, rest, ho, rfl⟩ | ⟨x, rest, ho, rfl⟩⟩ := emitCommand_cases h
    · exact .waits
    · exact .command c n rest hm ho
    · exact .outFault x rest _ (by rintro hs; simp [hs, Pos.micro] at hm) (by simp [hm]) ho
        (.inr (.inl ⟨c, hm, rfl⟩))
  | chunk =>
    have hs : s.seq = .txWC := Pos.micro_chunk _ hm
    by_cases hne : s.chunk = []
    · rw [stepSequencer_chunk_empty hs hne] at h; cases h
    · rw [stepSequencer_chunk hs hne, execData_here hs hne] at h
      rcases chWrite_cases h with ⟨-, rfl⟩ | ⟨n, rest, ho, h⟩ | ⟨x, rest, ho, rfl⟩
      · exact .waits
      · simp only [State.advance, State.assignMode, State.log_seq, State.log_cfg, State.log_wsum, hs, Pos.sets,
          Pos.next, Option.getD_none, Host.Outcome.next.injEq] at h
        subst h; exact .chunk n rest hs hne ho
      · exact .outFault x rest _ (by simp [hs]) (by simp [hm]) ho (.inr (.inr ⟨hs, hne, rfl⟩))
  | read k =>
    rw [stepSequencer_read hm] at h
    rcases chRead_cases h with rfl | ⟨bs, rest, hl, he, h⟩ | ⟨x, rest, rfl⟩
    · exact .waits
    · exact .read k bs rest hm hl he t h
    · exact .readFault k x rest hm

/-- Everything a step can do: a due hardware reset, or one step of the sequencer. -/
theorem step_cases (h : step s = .next t) :
    (s.resetDue = true ∧ t = s.acceptReset) ∨ (s.resetDue = false ∧ Moves s.tick t) := by
  cases hd : s.resetDue
  · rw [step_undue hd] at h; exact .inr ⟨rfl, stepSequencer_cases h⟩
  · rw [step_due hd] at h; exact .inl ⟨rfl, (Host.Outcome.next.inj h).symm⟩

end Sys2Proof.Machine
end

