-- ==== Sys2Proof/Laws/Sites.lean ====
section
/-! SUPPORT. Sys2Proof/Laws/Sites.lean: the site tables of Safety agree with the position tables, the chunk slice is the model's
chunk, and what one step is at a transaction that the channel answers. -/

namespace Sys2Proof.Machine

variable {s t u : State}

/-! ### the tables -/

/-- A listed site issues its command. -/
theorem commandSites_micro : ∀ p : Pos, ∀ x ∈ commandSites, x.2.1 = p → p.micro = .command x.1 := Pos.of_all (by decide)

/-- A listed site is followed by the listed position. -/
theorem commandSites_next : ∀ p : Pos, ∀ x ∈ commandSites, x.2.1 = p → p.next = x.2.2 := Pos.of_all (by decide)

/-- Every command position is a listed site, and neither it nor its successor is REST. -/
theorem commandSites_complete : ∀ p : Pos, ∀ c ∈ [Instr.cmdReset, .cmdVersion, .cmdSample, .cmdIr, .cmdTxHandshake,
    .cmdTxNotify, .cmdTxStart], p.micro = .command c → p.next ≠ .rest ∧ p ≠ .rest ∧ (c, p, p.next) ∈ commandSites :=
  Pos.of_all (by decide)

/-- A position that is no site, nor REST, nor TX.WC, pauses, flushes or reads. -/
theorem not_commandSites_micro : ∀ p : Pos, (∀ x ∈ commandSites, x.2.1 ≠ p) → p ≠ .rest → p ≠ .txWC →
    p.micro = .pause ∨ p.micro = .flush ∨ p.micro = .read 1 ∨ p.micro = .read 3 ∨ p.micro = .read 4 :=
  Pos.of_all (by decide)

theorem readSites_micro : ∀ p : Pos, ∀ y ∈ readSites, y.1 = p → p.micro = .read y.2 ∧ p ≠ .rest := Pos.of_all (by decide)

/-- The seven strings are what the commands write. -/
theorem commandStrings_bytes : ∀ x ∈ commandStrings, encode x.1 = .command x.2 ∧ x.1.wireBytes = x.2 := by decide

theorem mem_guardedPositions : ∀ p : Pos, p ∈ guardedPositions ↔ p.region = .guarded := Pos.of_all (by decide)

theorem mem_recoveryPositions : ∀ p : Pos, p ∈ recoveryPositions ↔ p.region = .recovery := Pos.of_all (by decide)

/-- A reset write assigns Idle (41_mode_transitions.md R130). -/
theorem resetSites_sets {p q : Pos} (h : (p, q) ∈ resetSites) (cfg : Config) : p.sets cfg = some .idle := by
  simp only [resetSites, List.mem_cons, List.not_mem_nil, or_false, Prod.mk.injEq] at h
  rcases h with h | h | h | h | h | h | h | h | h | h <;> rw [h.1] <;> rfl

/-- No other command assigns MODE (R133). -/
theorem otherSites_sets : ∀ p : Pos, ∀ x ∈ otherSites, x.2.1 = p → ∀ cfg, p.sets cfg = none := by
  intro p x hx hp cfg
  subst hp
  simp only [otherSites, List.mem_cons, List.not_mem_nil, or_false] at hx
  rcases hx with h | h | h | h | h | h | h | h | h | h | h <;> rw [h] <;> rfl

/-- The assignments to MODE, all of them (R133). -/
theorem Pos.sets_some (p : Pos) (cfg : Config) (m : Mode) (h : p.sets cfg = some m) :
    (p ∈ resetSites.map Prod.fst ∧ m = .idle) ∨ (p ∈ sampleEnds ∧ m = .sampling) ∨
      (p = .irmP ∧ m = cfg.irModeResult) ∨ (p = .txRH ∧ m = .transmit) := by
  have key : ∀ p : Pos, p ≠ .irmP → p ≠ .txRH →
      (p ∈ resetSites.map Prod.fst ∧ p.sets Config.default = some .idle) ∨
        (p ∈ sampleEnds ∧ p.sets Config.default = some .sampling) ∨ p.sets Config.default = none :=
    Pos.of_all (by decide)
  by_cases h1 : p = .irmP
  · subst h1; cases h; exact .inr (.inr (.inl ⟨rfl, rfl⟩))
  by_cases h2 : p = .txRH
  · subst h2; cases h; exact .inr (.inr (.inr ⟨rfl, rfl⟩))
  have hc : p.sets cfg = p.sets Config.default := by cases p <;> first | rfl | exact absurd rfl h1
  rw [hc] at h
  rcases key p h1 h2 with ⟨hm, hs⟩ | ⟨hm, hs⟩ | hs <;> rw [hs] at h <;> cases h
  · exact .inl ⟨hm, rfl⟩
  · exact .inr (.inl ⟨hm, rfl⟩)

/-! ### operands -/

/-- The slice as R70 writes it is the chunk the model writes. -/
theorem State.slice_eq_chunk (s : State) : s.slice = s.chunk := by
  simp [State.slice, State.chunk, chunkAt, Config.chunkMax, List.drop_take]

/-- The machine's chunk at CIDX = 32k is chunk k of the code (43_transmit.md R175). -/
theorem chunkAt_eq_chunkOf (code : List Byte) (k : Nat) : chunkAt code code.length (32 * k) = chunkOf code k := by
  apply List.ext_getElem
  · simp [chunkAt, chunkOf, Config.chunkMax]; omega
  · intro i h1 h2; simp [chunkAt, chunkOf]

/-- The sentinel test says that the code ends in 0xFF 0xFF (43_transmit.md R170). -/
theorem endsInSentinel_iff (code : List Byte) : endsInSentinel code = true ↔ ∃ pre, code = pre ++ [0xFF, 0xFF] := by
  constructor
  · intro h
    simp only [endsInSentinel, byteAt, Config.sentinelByte, Bool.and_eq_true, decide_eq_true_eq, beq_iff_eq] at h
    obtain ⟨⟨h1, h2⟩, h3⟩ := h
    refine ⟨code.take (code.length - 2), ?_⟩
    have hd : code.drop (code.length - 2) = [0xFF, 0xFF] := by
      apply List.ext_getElem
      · simp; omega
      · intro i _ hi
        simp at hi
        rw [List.getElem_drop]
        rw [List.getD_eq_getElem _ _ (by omega)] at h2 h3
        have : i = 0 ∨ i = 1 := by omega
        rcases this with rfl | rfl
        · simpa using h2
        · have e : code.length - 2 + 1 = code.length - 1 := by omega
          simp only [e]; simpa using h3
    conv_lhs => rw [← List.take_append_drop (code.length - 2) code, hd]
  · rintro ⟨pre, rfl⟩
    simp [endsInSentinel, byteAt, Config.sentinelByte]

/-- Three decimal digits parse (30_encoding.md R87). -/
theorem digit_of {v : Byte} {a : Nat} (ha : a ≤ 9) (h : v.toNat = 0x30 + a) : digit v = some a := by
  simp [digit, h]; omega

theorem parseVersion_of {v0 v1 v2 v3 : Byte} {a b c : Nat} (ha : a ≤ 9) (hb : b ≤ 9) (hc : c ≤ 9)
    (h1 : v1.toNat = 0x30 + a) (h2 : v2.toNat = 0x30 + b) (h3 : v3.toNat = 0x30 + c) :
    parseVersion [v0, v1, v2, v3] = some (a, 10 * b + c) := by
  simp [parseVersion, byteAt, digit_of ha h1, digit_of hb h2, digit_of hc h3]

/-- The digit values by byte (30_encoding.md R92). -/
theorem hexval_of_hexDigit {r : Byte} {a : Nat} (h : hexDigit r a) : hexval r = some a := by
  unfold hexval
  rcases h with ⟨h1, h2⟩ | ⟨h1, h2, h3 | h3⟩
  · rw [if_pos (by omega)]; congr 1; omega
  · rw [if_neg (by omega), if_pos (by omega)]; congr 1; omega
  · rw [if_neg (by omega), if_neg (by omega), if_pos (by omega)]; congr 1; omega

/-- Every other byte has no digit value (R92). -/
theorem hexval_of_noHexDigit {r : Byte} (h : noHexDigit r) : hexval r = none := by
  unfold hexval
  rw [if_neg (by omega), if_neg (by omega), if_neg (by omega)]

theorem hexval_lt {r : Byte} {a : Nat} (h : hexval r = some a) : a < 16 := by
  unfold hexval at h; split_ifs at h <;> cases h <;> omega

/-! ### one step -/

/-- A position with no assignment only moves on. -/
theorem advance_of_sets_none (h : s.seq.sets s.cfg = none) : s.advance = { s with seq := s.seq.next } := by
  simp [State.advance, State.assignMode, h]

/-- At rest a failure is the answer and nothing else changes (R82). -/
theorem raise_at_rest (h : s.seq = .rest) (e : Exn) : raise e s = { s with answers := s.answers ++ [.fail e] } := by
  rw [raise_plain _ _ (by simp [h, Pos.region])]; cases s; simp_all

/-- Where taking a failure changes PEND: recovery entry fills it, and a failure in recovery empties it (R216, R219). -/
theorem raise_pend_change {e : Exn} (h : (raise e s).pend ≠ s.pend) :
    (s.seq ∈ guardedPositions ∧ (raise e s).seq = .txRecRst .p1 ∧ (raise e s).pend = some e) ∨
      (s.seq ∈ recoveryPositions ∧ (raise e s).seq = .rest ∧ (raise e s).pend = none) := by
  rw [mem_guardedPositions, mem_recoveryPositions]
  cases hr : s.seq.region with
  | guarded => exact .inl ⟨rfl, by simp [raise, hr], by simp [raise, hr]⟩
  | recovery => exact .inr ⟨rfl, by simp [raise, hr], by simp [raise, hr]⟩
  | plain => simp [raise, hr] at h

/-- One step of the sequencer at a read that the stream satisfies. -/
theorem stepSequencer_read_got {k : Nat} {bs : List Byte} {rest : List InEvent} (hm : s.seq.micro = .read k)
    (hl : bs.length = k) (he : s.inEvents = delivers bs ++ rest) :
    stepSequencer s = readDone bs ({ s with inEvents := rest }.log (.read k bs)) := by
  rw [stepSequencer_read hm, chRead_got hl he]

/-- The step at a read that the stream satisfies, with no hardware reset due. -/
theorem step_read {k : Nat} {bs : List Byte} {rest : List InEvent} (hd : s.noResetDue) (hm : s.seq.micro = .read k)
    (hl : bs.length = k) (he : s.inEvents = delivers bs ++ rest) :
    step s = readDone bs ({ s.tick with inEvents := rest }.log (.read k bs)) :=
  (step_of_noResetDue hd).trans (stepSequencer_read_got (s := s.tick) hm hl he)

/-- A read whose stream faults early. -/
theorem takeBytes_faulted {k : Nat} {bs : List Byte} {x : FaultInfo} {rest : List InEvent} (h : bs.length < k) :
    takeBytes k (delivers bs ++ .fault x :: rest) = .faulted x rest := by
  induction bs generalizing k with
  | nil => cases k with
    | zero => simp at h
    | succ k => rfl
  | cons b bs ih => cases k with
    | zero => simp at h
    | succ k =>
      have := ih (k := k) (by simpa using h)
      simp only [delivers] at this
      simp [delivers, takeBytes, this]

/-- One step of the sequencer at a transaction that faults takes the failure at that position (20_memory.md R54,
60_exceptions.md R213). -/
theorem stepSequencer_fault {x : FaultInfo} (h : faultsWith s x u) :
    stepSequencer s = .next (raise (.channelFault x) u) ∧ u.seq = s.seq ∧ u.answers = s.answers := by
  rcases h with ⟨c, q, bs, rest, h1, h2, ho, rfl⟩ | ⟨rest, h1, h2, ho, rfl⟩ | ⟨rest, h1, ho, rfl⟩ |
    ⟨k, bs, rest, h1, h2, ho, rfl⟩
  · have hm := commandSites_micro _ _ h1 rfl
    rw [stepSequencer_command hm, emitCommand_here hm, chWrite_fault ho, (commandStrings_bytes _ h2).2]
    exact ⟨rfl, rfl, rfl⟩
  · rw [State.slice_eq_chunk] at h2 ⊢
    rw [stepSequencer_chunk h1 h2]
    refine ⟨(execData_here h1 h2).trans ?_, rfl, rfl⟩
    rw [chWrite_fault ho]; rfl
  · rw [stepSequencer_flush (by simp [h1, Pos.micro])]
    simp [flushStep, chFlush, ho]; rfl
  · rw [stepSequencer_read (readSites_micro _ _ h1 rfl).1]
    refine ⟨?_, rfl, rfl⟩
    simp [chRead, ho, takeBytes_faulted h2]; rfl

/-- The transaction faults alike when the count to the next hardware reset has moved. -/
theorem faultsWith_tick {x : FaultInfo} (h : faultsWith s x u) : faultsWith s.tick x u.tick := by
  rcases h with ⟨c, q, bs, rest, h1, h2, ho, rfl⟩ | ⟨rest, h1, h2, ho, rfl⟩ | ⟨rest, h1, ho, rfl⟩ |
    ⟨k, bs, rest, h1, h2, ho, rfl⟩
  · exact .inl ⟨c, q, bs, rest, h1, h2, ho, rfl⟩
  · exact .inr (.inl ⟨rest, h1, h2, ho, rfl⟩)
  · exact .inr (.inr (.inl ⟨rest, h1, ho, rfl⟩))
  · exact .inr (.inr (.inr ⟨k, bs, rest, h1, h2, ho, rfl⟩))

/-- The step at a transaction that faults, with no hardware reset due. -/
theorem step_fault {x : FaultInfo} (hd : s.noResetDue) (h : faultsWith s x u) :
    step s = .next (raise (.channelFault x) u.tick) ∧ u.seq = s.seq ∧ u.answers = s.answers :=
  ⟨(step_of_noResetDue hd).trans (stepSequencer_fault (faultsWith_tick h)).1, (stepSequencer_fault h).2⟩

end Sys2Proof.Machine
end

