-- ==== Sys2Proof/Laws/Reads.lean ====
section
/-! SUPPORT. Sys2Proof/Laws/Reads.lean: everything the completion of a read can do, in one lemma (`readDone_cases`). -/

namespace Sys2Proof.Machine

/-- What the completion of a read with the bytes `bs` can do, at the position of each read (20_memory.md R55). -/
inductive ReadMoves (bs : List Byte) (s : State) : State → Prop where
  /-- a version read fails its parse or the firmware floor (30_encoding.md R87; 40_version_construct.md R113) -/
  | versionFails (hs : s.seq = .fwr .r ∨ s.seq = .conFwr .r) (e : Exn) :
      ReadMoves bs s (State.finish { s with vbuf := bs } (.fail e))
  /-- FWREV answers (R111) -/
  | versionAnswer (hs : s.seq = .fwr .r) (hw fw : Nat) :
      ReadMoves bs s (State.finish { s with vbuf := bs } (.ok (.version hw fw)))
  /-- CONSTRUCT goes on to the sampling entry (R113) -/
  | versionGoesOn (hs : s.seq = .conFwr .r) : ReadMoves bs s { s with vbuf := bs, seq := .conSmp (.rst .p1) }
  /-- a byte is received (42_receive.md R150) -/
  | received (hs : s.seq = .rcvR) (hf : receiveFull s.cfg s.rbuf = false) :
      ReadMoves bs s { s.appendReceived (byteAt bs 0) with
        seq := if terminatorFires (s.rcnt + 1) s.prev (byteAt bs 0) then .rcvP2 else .rcvR }
  /-- the setup handshake (43_transmit.md R173) -/
  | setup (hs : s.seq = .txRH) :
      ReadMoves bs s { s with hs := byteAt bs 0, hsv := true, mode := .transmit, seq := .txP2 }
  /-- a chunk's handshake (R177) -/
  | handshake (hs : s.seq = .txRC) :
      ReadMoves bs s { s with
        hs := byteAt bs 0, hsv := true, cidx := s.cidx + 32
        seq := if s.cidx + 32 < s.clen then .txWC else if s.wsum = s.clen then .txP3 else .txRecRst .p1
        pend := if s.cidx + 32 < s.clen ∨ s.wsum = s.clen then s.pend
          else some (.writeCountMismatch s.wsum s.clen) }
  /-- the report's head does not parse (R178) -/
  | reportFails (hs : s.seq = .txR3) :
      ReadMoves bs s { s with pend := some (.reportParseFault bs), seq := .txRecRst .p1 }
  /-- the report's head (R178) -/
  | report (hs : s.seq = .txR3) (n : Half)
      (hn : decodeCount s.cfg.countDecode (byteAt bs 1) (byteAt bs 2) = some n) :
      ReadMoves bs s { s with bc := n, bcv := true, seq := .txR1 }
  /-- the flag passes (R179) -/
  | flagPasses (hs : s.seq = .txR1) (hc : completionOk (byteAt bs 0) = true) :
      ReadMoves bs s { s with cf := byteAt bs 0, cfv := true, seq := .txSmp (.rst .p1) }
  /-- the flag fails (R179) -/
  | flagFails (hs : s.seq = .txR1) (hc : completionOk (byteAt bs 0) = false) :
      ReadMoves bs s { s with
        cf := byteAt bs 0, cfv := true, pend := some (.irTransmitError (byteAt bs 0)), seq := .txRecRst .p1 }
  /-- the sampling response is dropped (30_encoding.md R88) -/
  | dropped (q : Pos) (hx : (s.seq, q) ∈ sampleReadSites) : ReadMoves bs s { s with seq := q }

/-- The positions that read: seven with a completion of their own, and the sampling responses. -/
theorem Pos.reads (p : Pos) (k : Nat) (h : p.micro = .read k) : p = .fwr .r ∨ p = .conFwr .r ∨ p = .rcvR ∨ p = .txRH ∨
    p = .txRC ∨ p = .txR3 ∨ p = .txR1 ∨ (p, p.next) ∈ sampleReadSites := by
  have h1 : ∀ p : Pos, p.micro ∈ [Micro.read 1, .read 3, .read 4] → p = .fwr .r ∨ p = .conFwr .r ∨ p = .rcvR ∨
      p = .txRH ∨ p = .txRC ∨ p = .txR3 ∨ p = .txR1 ∨ (p, p.next) ∈ sampleReadSites := Pos.of_all (by decide)
  have h2 : ∀ p : Pos, p.micro ∉ [Micro.read 1, .read 3, .read 4] → p.micro ∈ [Micro.wait, .pause, .flush, .chunk,
      .command .cmdReset, .command .cmdVersion, .command .cmdSample, .command .cmdIr, .command .cmdTxHandshake,
      .command .cmdTxNotify, .command .cmdTxStart] := Pos.of_all (by decide)
  by_cases hm : p.micro ∈ [Micro.read 1, .read 3, .read 4]
  · exact h1 p hm
  · have := h2 p hm; rw [h] at this; simp at this

/-- A read of the sampling response assigns nothing. -/
theorem sampleReadSites_sets {p q : Pos} (h : (p, q) ∈ sampleReadSites) (cfg : Config) : p.sets cfg = none := by
  simp only [sampleReadSites, List.mem_cons, List.not_mem_nil, or_false, Prod.mk.injEq] at h
  rcases h with h | h | h | h | h <;> rw [h.1] <;> rfl

/-- Everything the completion of a read can do. -/
theorem readDone_cases {bs : List Byte} {k : Nat} {s t : State} (hm : s.seq.micro = .read k)
    (h : readDone bs s = .next t) : ReadMoves bs s t := by
  unfold readDone at h
  split at h
  · rename_i hs
    have hr : ∀ e, raise e { s with vbuf := bs } = State.finish { s with vbuf := bs } (.fail e) := fun e => by
      simp [raise, hs, Pos.region]
    simp only [fwrevReadDone] at h
    split at h <;> cases h
    · rw [hr]; exact .versionFails (.inl hs) _
    · exact .versionAnswer hs _ _
  · rename_i hs
    have hr : ∀ e, raise e { s with vbuf := bs } = State.finish { s with vbuf := bs } (.fail e) := fun e => by
      simp [raise, hs, Pos.region]
    simp only [constructReadDone] at h
    split at h
    · cases h; rw [hr]; exact .versionFails (.inr hs) _
    · split_ifs at h <;> cases h
      · rw [hr]; exact .versionFails (.inr hs) _
      · rw [advance_of_sets_none (by simp only [hs]; rfl)]; simp only [hs]; exact .versionGoesOn hs
  · rename_i hs
    simp only [receiveReadDone] at h
    split_ifs at h with h1 h2 <;> cases h <;>
      simpa [h2] using ReadMoves.received (bs := bs) hs (by simpa using h1)
  · rename_i hs
    cases h
    simpa [State.advance, State.assignMode, hs, Pos.sets, Pos.next] using ReadMoves.setup (bs := bs) hs
  · rename_i hs
    have hall := ReadMoves.handshake (bs := bs) hs
    simp only [chunkHandshakeDone] at h
    split_ifs at h with h1 h2 <;> cases h
    · change s.cidx + 32 < s.clen at h1; simpa [h1, Config.chunkMax] using hall
    · change ¬ s.cidx + 32 < s.clen at h1; simpa [h1, h2, raise, hs, Pos.region, Config.chunkMax] using hall
    · change ¬ s.cidx + 32 < s.clen at h1
      have h2 : s.wsum = s.clen := by simpa using h2
      simpa [h1, h2, Config.chunkMax] using hall
  · rename_i hs
    simp only [reportReadDone] at h
    split at h <;> cases h
    · simp only [raise, hs, Pos.region]; exact .reportFails hs
    · rename_i n hn
      rw [advance_of_sets_none (by simp only [hs]; rfl)]; simp only [hs]; exact .report hs n hn
  · rename_i hs
    simp only [flagReadDone] at h
    split_ifs at h with h1 <;> cases h
    · rw [advance_of_sets_none (by simp only [hs]; rfl)]; simp only [hs]; exact .flagPasses hs h1
    · simp only [raise, hs, Pos.region]; exact .flagFails hs (by simpa using h1)
  · rename_i g1 g2 g3 g4 g5 g6 g7
    cases h
    rcases s.seq.reads k hm with h | h | h | h | h | h | h | h
    · exact absurd h g1
    · exact absurd h g2
    · exact absurd h g3
    · exact absurd h g4
    · exact absurd h g5
    · exact absurd h g6
    · exact absurd h g7
    · rw [advance_of_sets_none (sampleReadSites_sets h _)]; exact .dropped _ h

end Sys2Proof.Machine
end

