-- ==== Sys2Proof/Laws/Invariant.lean ====
section
/-! SUPPORT. Sys2Proof/Laws/Invariant.lean: the invariant at the two places an operation can leave to (REST, and the first
position of recovery), and that taking a failure keeps it. -/

namespace Sys2Proof.Machine

variable {s t u : State}

/-- At REST the invariant asks for what outlives an operation only. -/
theorem inv_of_rest (hs : t.seq = .rest) (hm : Memory.wf t) (hp : t.pend = none)
    (hu : t.ready = false → t.hsv = false ∧ t.bcv = false ∧ t.cfv = false)
    (hr : (t.cfv = true → t.bcv = true) ∧ (t.bcv = true → t.hsv = true))
    (hc : ∀ m, t.cfg.rbufMax = some m → t.rbuf.length ≤ m) (hv : t.vbuf.length = 4)
    (hb : t.cfg.countDecode = .asciihex2 → t.bcv = true → t.bc.toNat ≤ 255) : t.Inv := by
  refine ⟨hm, ?_, ?_, hu, hr, ?_, ?_, ?_, ?_, ?_, ?_, ?_, ?_, ?_, hc, hv, hb, ?_⟩ <;>
    simp [hs, hp, Pos.region, Pos.afterHandshake, Pos.beforeReceiveLoop, Pos.held]

/-- At the first position of recovery. -/
theorem inv_of_recovery (hs : t.seq = .txRecRst .p1) (hm : Memory.wf t) (hp : t.pend.isSome = true) (hy : t.ready = true)
    (hr : (t.cfv = true → t.bcv = true) ∧ (t.bcv = true → t.hsv = true))
    (hc : ∀ m, t.cfg.rbufMax = some m → t.rbuf.length ≤ m) (hv : t.vbuf.length = 4)
    (hb : t.cfg.countDecode = .asciihex2 → t.bcv = true → t.bc.toNat ≤ 255) : t.Inv := by
  refine ⟨hm, ?_, ?_, ?_, hr, ?_, ?_, ?_, ?_, ?_, ?_, ?_, ?_, ?_, hc, hv, hb, ?_⟩ <;>
    simp [hs, hp, hy, Pos.region, Pos.afterHandshake, Pos.beforeReceiveLoop, Pos.held, Rst.held, Pos.inConstruct]

/-- Taking a failure in the middle of an operation keeps the invariant, where only the channel and the trace have moved
since it held. -/
theorem inv_raise (hi : s.Inv) (e : Exn) (hb : s.seq ≠ .rest)
    (hu : u = { s with outAns := u.outAns, inEvents := u.inEvents, trace := u.trace }) : (raise e u).Inv := by
  have hs : u.seq = s.seq := by rw [hu]
  cases hreg : u.seq.region with
  | guarded =>
    have hy : s.ready = true := by
      have hk : ∀ p : Pos, p.region = .guarded → p.inConstruct = false := Pos.of_all (by decide)
      rw [hi.ready hb, hk _ (hs ▸ hreg)]; rfl
    rw [raise_guarded _ _ hreg, hu]
    exact inv_of_recovery rfl hi.memory rfl hy hi.reported hi.capacity hi.version hi.count
  | recovery =>
    rw [raise_recovery _ _ hreg, hu]
    exact inv_of_rest rfl hi.memory rfl hi.unready hi.reported hi.capacity hi.version hi.count
  | plain =>
    rw [raise_plain _ _ hreg, hu]
    have hp : s.pend = none := by have := hi.pending; rw [← hs, hreg] at this; simpa using this
    exact inv_of_rest rfl hi.memory hp hi.unready hi.reported hi.capacity hi.version hi.count

/-- The count to the next hardware reset is no part of the invariant. -/
theorem inv_tick (hi : s.Inv) : s.tick.Inv :=
  ⟨hi.1, hi.2, hi.3, hi.4, hi.5, hi.6, hi.7, hi.8, hi.9, hi.10, hi.11, hi.12, hi.13, hi.14, hi.15, hi.16, hi.17, hi.18⟩

/-- Whether a stream stops a receive at `k` is told by its first `k` bytes (42_receive.md R151). -/
theorem stopsAt_append {xs ys : List Byte} {k : Nat} (h : k ≤ xs.length) : stopsAt (xs ++ ys) k ↔ stopsAt xs k := by
  unfold stopsAt
  constructor <;> rintro ⟨h1, h2, h3, h4⟩ <;> refine ⟨h1, by (try simp); omega, ?_, ?_⟩
  all_goals simp only [byteAt] at *
  · rwa [List.getD_append _ _ _ _ (by omega)] at h3
  · rwa [List.getD_append _ _ _ _ (by omega)] at h4
  · rwa [List.getD_append _ _ _ _ (by omega)]
  · rwa [List.getD_append _ _ _ _ (by omega)]

/-- An accepted operand gives a code of the invariant's shape (43_transmit.md R170). -/
theorem adjustCode_of_checkCode {cfg : Config} {code : List Byte} (h : checkCode cfg code = none) :
    2 ≤ (adjustCode code).length ∧ (adjustCode code).length % 2 = 0 ∧ endsInSentinel (adjustCode code) = true ∧
      tooLong cfg (adjustCode code) = false := by
  unfold checkCode at h
  split_ifs at h with h1 h2 h3
  refine ⟨?_, ?_, ?_, by simpa using h3⟩
  · unfold adjustCode; split_ifs
    · omega
    · simp
  · unfold adjustCode; split_ifs <;> (try simp) <;> omega
  · unfold adjustCode; split_ifs with hx
    · exact hx
    · rw [endsInSentinel_iff]; exact ⟨code, rfl⟩

end Sys2Proof.Machine
end

