-- ==== Sys2Proof/Laws/PerInstr.lean ====
section
/-! SUPPORT. Sys2Proof/Laws/PerInstr.lean: statements made per instruction of the syntax: the length of the byte string an
instruction puts on the channel (30_encoding.md R85: the commands' lengths; a chunk of 1 to 32 bytes; a host operation
puts none). -/

namespace Sys2Proof.Laws.WireLength

/-- A well-formed instruction writes at most 32 bytes, and none exactly when it is a host operation. -/
def Statement (i : Instr) : Prop :=
  i.wf = true → i.wireBytes.length ≤ 32 ∧ (i.wireBytes = [] ↔ ∃ r, encode i = .request r)

theorem construct : Statement .construct := fun _ => ⟨by decide, by simp [Instr.wireBytes, encode, FetchWord.wireBytes]⟩
theorem fwrev : Statement .fwrev := fun _ => ⟨by decide, by simp [Instr.wireBytes, encode, FetchWord.wireBytes]⟩
theorem reset : Statement .reset := fun _ => ⟨by decide, by simp [Instr.wireBytes, encode, FetchWord.wireBytes]⟩
theorem sample : Statement .sample := fun _ => ⟨by decide, by simp [Instr.wireBytes, encode, FetchWord.wireBytes]⟩
theorem irmode : Statement .irmode := fun _ => ⟨by decide, by simp [Instr.wireBytes, encode, FetchWord.wireBytes]⟩
theorem receive : Statement .receive := fun _ => ⟨by decide, by simp [Instr.wireBytes, encode, FetchWord.wireBytes]⟩
theorem transmit (code : List Byte) : Statement (.transmit code) :=
  fun _ => ⟨by simp [Instr.wireBytes, encode, FetchWord.wireBytes], by simp [Instr.wireBytes, encode, FetchWord.wireBytes]⟩
theorem illegal : Statement .illegal := fun _ => ⟨by decide, by simp [Instr.wireBytes, encode, FetchWord.wireBytes]⟩
theorem cmdReset : Statement .cmdReset := fun _ => ⟨by decide, by simp [Instr.wireBytes, encode, FetchWord.wireBytes]⟩
theorem cmdVersion : Statement .cmdVersion := fun _ => ⟨by decide, by simp [Instr.wireBytes, encode, FetchWord.wireBytes]⟩
theorem cmdSample : Statement .cmdSample := fun _ => ⟨by decide, by simp [Instr.wireBytes, encode, FetchWord.wireBytes]⟩
theorem cmdIr : Statement .cmdIr := fun _ => ⟨by decide, by simp [Instr.wireBytes, encode, FetchWord.wireBytes]⟩
theorem cmdTxHandshake : Statement .cmdTxHandshake :=
  fun _ => ⟨by decide, by simp [Instr.wireBytes, encode, FetchWord.wireBytes]⟩
theorem cmdTxNotify : Statement .cmdTxNotify :=
  fun _ => ⟨by decide, by simp [Instr.wireBytes, encode, FetchWord.wireBytes]⟩
theorem cmdTxStart : Statement .cmdTxStart := fun _ => ⟨by decide, by simp [Instr.wireBytes, encode, FetchWord.wireBytes]⟩
theorem data (bytes : List Byte) : Statement (.data bytes) := by
  intro h
  simp only [Instr.wf, Instr.chunkNonempty, Instr.chunkFits, Config.chunkMax, Bool.and_eq_true] at h
  refine ⟨of_decide_eq_true h.2, ?_⟩
  simp only [Instr.wireBytes, encode, FetchWord.wireBytes]
  constructor
  · rintro rfl; simp at h
  · rintro ⟨r, ⟨⟩⟩

end Sys2Proof.Laws.WireLength
end

