-- ==== Sys2Proof/Laws/Run.lean ====
section
/-! SUPPORT. Sys2Proof/Laws/Run.lean: runs of several steps, cut where a proof wants them. -/

namespace Sys2Proof.Machine

/-- One step, then the rest. -/
theorem run_succ {k : Nat} {s t : State} (h : step s = .next t) : run (k + 1) s = run k t := by simp [run, h]

/-- `a` steps, then `b` more. -/
theorem run_add {a b : Nat} {s t : State} (h : run a s = .next t) : run (a + b) s = run b t := by
  induction a generalizing s with
  | zero => simp [run] at h; subst h; simp
  | succ a ih =>
    rw [Nat.add_right_comm]
    simp only [run] at h ⊢
    cases hs : step s <;> simp only [hs] at h ⊢
    · exact ih h
    · cases h
    · cases h

end Sys2Proof.Machine
end

