-- ==== Sys2Proof/Tests/Slice0.lean ====
section
/-! SUPPORT. Sys2Proof/Tests/Slice0.lean: the model's own tests. Words are written out from spec/opcode_table.json and
30_encoding.md; expected results come from 95_test_vectors.md (the id stands in the comment); then, for each obligation with
hypotheses, a state and operands that meet them all, boundary values among them. -/

namespace Sys2Proof.Tests

open Sys2Proof.Machine

/-- A constructed block at rest in the launch state (70_reset_and_hazards.md R243). -/
def base : State := { State.reset with mode := .sampling, ready := true }

/-- The same in the middle of an operation. -/
def stand (p : Pos) : State := { base with seq := p }

/-- With a request waiting. -/
def asks (op : BitVec 3) (code : List Byte) : State := { base with opIn := [{ op := op, operand := code }] }

/-- With answers to writes waiting. -/
def answering (s : State) (os : List OutAnswer) : State := { s with outAns := os }

/-- With input waiting. -/
def hearing (s : State) (es : List InEvent) : State := { s with inEvents := es }

/-- With a hardware reset to come later, and none due now. -/
def scheduled (s : State) : State := { s with rstIn := [3] }

/-- A view of the next state. -/
def after {α : Type} (o : Out) (f : State → α) : Option α :=
  match o with
  | .next t => some (f t)
  | .fault _ => none
  | .refused _ => none

/-- The state after one step, for witnesses. -/
def stepOf (s : State) : State := (after (step s) id).getD s

/-! ### WellFormed -/

theorem test_wf_empty_chunk : (Instr.data []).chunkNonempty = false ∧ (Instr.data []).wf = false := by decide
theorem test_wf_chunk_of_33 : (Instr.data (List.replicate 33 1)).chunkFits = false ∧
    (Instr.data (List.replicate 33 1)).wf = false := by decide
theorem test_wf_chunks_of_1_and_32 : (Instr.data [1]).wf = true ∧ (Instr.data (List.replicate 32 1)).wf = true := by decide

/-! ### Decode: every row's word, bit by bit (opcode_table.json; R80, R85) -/

theorem test_decode_host_rows :
    decodeTableWord 8 0b00000000 = some .construct ∧ decodeTableWord 8 0b00000001 = some .fwrev ∧
    decodeTableWord 8 0b00000010 = some .reset ∧ decodeTableWord 8 0b00000011 = some .sample ∧
    decodeTableWord 8 0b00000100 = some .irmode ∧ decodeTableWord 8 0b00000101 = some .receive ∧
    decodeTableWord 8 0b00000110 = some (.transmit []) ∧ decodeTableWord 8 0b00000111 = some .illegal := by decide
theorem test_decode_wire_rows :
    decodeTableWord 40 0b0000000000000000000000000000000000000000 = some .cmdReset ∧
    decodeTableWord 8 0b01110110 = some .cmdVersion ∧ decodeTableWord 8 0b01010011 = some .cmdSample ∧
    decodeTableWord 16 0b0100100101010010 = some .cmdIr ∧ decodeTableWord 8 0b00100110 = some .cmdTxHandshake ∧
    decodeTableWord 8 0b00100101 = some .cmdTxNotify := by decide
/-- The row CMD_TX_START shares its bits with the host row SAMPLE (log 14): read at its position. -/
theorem test_decode_tx_start : decode (.command [0b00000011]) = .ok .cmdTxStart := by decide
/-- "IR" with its bytes exchanged is no command. -/
theorem test_decode_ir_order : decode (.command [0x52, 0x49]) = .reject .unknownCommand := by decide
theorem test_decode_data : decode (.chunk [0xFF]) = .ok (.data [0xFF]) ∧ decode (.chunk []) = .reject .emptyChunk ∧
    decode (.chunk (List.replicate 33 0)) = .reject .chunkTooLong ∧ decodeTableWord 0 0 = some (.data [0]) := by decide
theorem test_decode_transmit_operand :
    decode (.request { op := 0b110, operand := [0x00, 0x10] }) = .ok (.transmit [0x00, 0x10]) := by decide
/-- The next step runs the placed word: one of each kind. -/
theorem test_with_fetch_word :
    fetch (State.reset.withFetchWord 8 0b010) = some (.request { op := 2, operand := [] }) ∧
    fetch (State.reset.withFetchWord 16 0x4952) = some (.command [0x49, 0x52]) ∧
    fetch (State.reset.withFetchWord 40 0) = some (.command [0, 0, 0, 0, 0]) ∧
    fetch (State.reset.withFetchWord 0 0) = some (.chunk [0]) := by decide
theorem test_with_fetch_word_runs :
    after (step (State.reset.withFetchWord 16 0x4952)) (fun t => (t.seq, t.trace)) =
      some (.irmP, [.write [0x49, 0x52] 2]) ∧
    after (step (State.reset.withFetchWord 0 0)) (fun t => (t.seq, t.trace)) = some (.txRC, [.write [0] 1]) := by decide

/-! ### positions (10_state.md R26) -/

theorem test_74_positions : Pos.all.length = 74 ∧ Pos.all.Nodup := by decide
/-- R182: the protected section has eleven positions. -/
theorem test_protected_section : (Pos.all.filter fun p => decide (p.region = .guarded)).length = 11 := by decide

/-! ### operands and tests -/

/-- V-VER-1, V-VER-5, V-VER-8, V-VER-9. -/
theorem test_version_parse :
    parseVersion [0x00, 0x31, 0x32, 0x32] = some (1, 22) ∧ parseVersion [0x56, 0x39, 0x39, 0x39] = some (9, 99) ∧
    parseVersion [0x56, 0x32, 0x2F, 0x32] = none ∧ parseVersion [0x56, 0x32, 0x32, 0x3A] = none := by decide
/-- V-CNT-3, V-CNT-4, V-CNT-6, V-CNT-8, V-CNT-9. -/
theorem test_count_decode :
    decodeCount .raw16be 0x01 0x00 = some 256 ∧ decodeCount .raw16be 0xFF 0xFF = some 65535 ∧
    decodeCount .raw16be 0x30 0x36 = some 12342 ∧ decodeCount .asciihex2 0x30 0x36 = some 6 ∧
    decodeCount .asciihex2 0x46 0x46 = some 255 ∧ decodeCount .asciihex2 0x66 0x66 = some 255 ∧
    decodeCount .asciihex2 0x00 0x06 = none := by decide
/-- V-VAL-1, V-VAL-2, V-VAL-3, V-VAL-12. -/
theorem test_code_refused :
    checkCode Config.default [] = some .tooShort ∧ checkCode Config.default [0x01] = some .tooShort ∧
    checkCode Config.default [0x01, 0x02, 0x03] = some .oddLength ∧
    checkCode Config.default [0x01, 0x02, 0x03, 0xFF, 0xFF] = some .oddLength := by decide
/-- V-VAL-4, V-VAL-6, V-VAL-7, V-VAL-8. -/
theorem test_code_adjusted :
    adjustCode [0xFF, 0xFF] = [0xFF, 0xFF] ∧ adjustCode [0x01, 0xFF] = [0x01, 0xFF, 0xFF, 0xFF] ∧
    adjustCode [0xFF, 0x01] = [0xFF, 0x01, 0xFF, 0xFF] ∧
    adjustCode [0xFF, 0xFF, 0x00, 0x00] = [0xFF, 0xFF, 0x00, 0x00, 0xFF, 0xFF] := by decide
/-- V-TX-19. -/
theorem test_completion_flag : completionOk 0x63 = true ∧ completionOk 0x43 = true ∧ completionOk 0x62 = false ∧
    completionOk 0x64 = false ∧ completionOk 0x46 = false := by decide
/-- The step table of V-RCV-5. -/
theorem test_detector : terminatorFires 1 0x00 0xFF = false ∧ terminatorFires 2 0xFF 0xFF = false ∧
    terminatorFires 3 0xFF 0x01 = false ∧ terminatorFires 4 0x01 0xFF = false ∧ terminatorFires 5 0xFF 0xFF = true := by
  decide
/-- V-RCV-2, V-RCV-7, V-RCV-9, V-RCV-10. -/
theorem test_first_stop :
    firstStopsAt [0xFF, 0xFF, 0xFF] 3 ∧ firstStopsAt [0xFF, 0x00, 0xFF, 0x00, 0xFF, 0xFF] 6 ∧
    firstStopsAt [0x00, 0x12, 0x00, 0xFF, 0xFF, 0x34, 0x00, 0x56, 0xFF, 0xFF] 5 ∧ ¬ stopsAt [0xFF, 0xFF] 2 := by decide
/-- Section 2.7's rows for CLEN = 34, 64, 66, 100. -/
theorem test_chunks : (List.range (chunkCount 34)).map (fun k => (chunkOf (List.replicate 34 1) k).length) = [32, 2] ∧
    chunkCount 64 = 2 ∧ chunkCount 66 = 3 ∧
    (List.range (chunkCount 100)).map (fun k => (chunkOf (List.replicate 100 1) k).length) = [32, 32, 32, 4] := by decide

/-! ### one step of each instruction -/

/-- V-ACC-7: CONSTRUCT clears READY and the valid bits at acceptance, and not MODE. -/
theorem test_construct :
    after (exec .construct { base with hs := 0x3E, hsv := true, bc := 6, bcv := true, cf := 0x43, cfv := true })
      State.status = some { mode := .sampling, ready := false, busy := true, hs := none, bc := none, cf := none } := by
  decide
/-- V-ACC-6. -/
theorem test_fwrev_not_ready : after (exec .fwrev State.reset) (fun t => (t.seq, t.answers)) =
    some (.rest, [.fail .notReady]) := by decide
theorem test_reset : after (exec .reset base) (fun t => (t.seq, t.mode)) = some (.rst .p1, .sampling) := by decide
theorem test_sample : after (exec .sample base) (fun t => (t.seq, t.mode)) = some (.smp (.rst .p1), .sampling) := by decide
theorem test_irmode : after (exec .irmode base) (fun t => (t.seq, t.mode)) = some (.irmRst .p1, .sampling) := by decide
theorem test_receive : after (exec .receive { base with rbuf := [1, 2], rcnt := 2 }) (fun t => (t.seq, t.rbuf, t.rcnt)) =
    some (.rcvP1, [], 0) := by decide
/-- V-VAL-5. -/
theorem test_transmit : after (exec (.transmit [0x01, 0x02]) base) (fun t => (t.seq, t.cbuf, t.clen)) =
    some (.txP1, [0x01, 0x02, 0xFF, 0xFF], 4) := by decide
/-- PRG-2 step 3: NotReady comes before InvalidArgument. -/
theorem test_transmit_not_ready : after (exec (.transmit []) State.reset) (fun t => (t.seq, t.answers)) =
    some (.rest, [.fail .notReady]) := by decide
/-- V-ACC-1. -/
theorem test_illegal : after (exec .illegal State.reset) (fun t => (t.seq, t.answers)) =
    some (.rest, [.fail .illegalOperation]) := by decide
/-- V-RST-5: a short count is ignored; MODE <- Idle with the write. -/
theorem test_cmd_reset : after (exec .cmdReset (answering (stand (.rst .w)) [.done 2])) (fun t => (t.seq, t.mode, t.trace)) =
    some (.rst .p2, .idle, [.write [0, 0, 0, 0, 0] 2]) := by decide
/-- V-RST-4: on a fault MODE is unchanged. -/
theorem test_cmd_reset_fault : after (exec .cmdReset (answering (stand (.rst .w)) [.fault 7]))
    (fun t => (t.seq, t.mode, t.answers)) = some (.rest, .sampling, [.fail (.channelFault 7)]) := by decide
/-- V-FWR-5: the count 0 is ignored. -/
theorem test_cmd_version : after (exec .cmdVersion (answering (stand (.fwr .w)) [.done 0])) (fun t => (t.seq, t.trace)) =
    some (.fwr .p, [.write [0x76] 0]) := by decide
theorem test_cmd_sample : after (exec .cmdSample (answering (stand (.txRecSmp .w)) [.done 1])) (fun t => (t.seq, t.trace)) =
    some (.txRecSmp .p1, [.write [0x53] 1]) := by decide
/-- V-IRM-2. -/
theorem test_cmd_ir_fault : after (exec .cmdIr (answering (stand .irmW) [.fault 7])) (fun t => (t.seq, t.answers)) =
    some (.rest, [.fail (.channelFault 7)]) := by decide
theorem test_cmd_tx_handshake : after (exec .cmdTxHandshake (answering (stand .txW26) [.done 1])) (fun t => (t.seq, t.trace)) =
    some (.txW25, [.write [0x26] 1]) := by decide
/-- V-TX-10: a fault on 0x25 enters recovery. -/
theorem test_cmd_tx_notify_fault : after (exec .cmdTxNotify (answering (stand .txW25) [.fault 7]))
    (fun t => (t.seq, t.pend, t.answers)) = some (.txRecRst .p1, some (.channelFault 7), []) := by decide
theorem test_cmd_tx_start : after (exec .cmdTxStart (answering (stand .txW03) [.done 1])) (fun t => (t.seq, t.hsv)) =
    some (.txRH, false) := by decide

/-- TX.WC with a code of 34 bytes, at its second chunk. -/
def secondChunk : State :=
  { stand .txWC with
    mode := .transmit, hsv := true, cbuf := List.replicate 32 1 ++ [0xFF, 0xFF], clen := 34, cidx := 32, wsum := 30 }

/-- V-TX-7: the second chunk is CBUF[32:34] though the first count was short, and its count is not clipped. -/
theorem test_data : after (exec (.data [0xFF, 0xFF]) (answering secondChunk [.done 4]))
    (fun t => (t.seq, t.wsum, t.trace)) = some (.txRC, 34, [.write [0xFF, 0xFF] 4]) := by decide

/-! ### one step at the other positions -/

/-- V-TX-11: a fault at the handshake read leaves HS and MODE. -/
theorem test_setup_handshake_fault : after (step (hearing (stand .txRH) [.fault 7]))
    (fun t => (t.seq, t.hsv, t.mode, t.pend)) = some (.txRecRst .p1, false, .sampling, some (.channelFault 7)) := by decide
theorem test_setup_handshake : after (step (hearing (stand .txRH) [.byte 0x3E]))
    (fun t => (t.seq, t.hs, t.hsv, t.mode)) = some (.txP2, 0x3E, true, .transmit) := by decide
/-- V-TX-6: WSUM = 5, CLEN = 6 is found after the last handshake, which is stored. -/
theorem test_write_count_mismatch :
    after (step (hearing { stand .txRC with cbuf := [0, 16, 0, 32, 0xFF, 0xFF], clen := 6, wsum := 5 } [.byte 0x3D]))
      (fun t => (t.seq, t.hs, t.pend)) = some (.txRecRst .p1, 0x3D, some (.writeCountMismatch 5 6)) := by decide
/-- V-TX-5: the failing flag is stored before the test. -/
theorem test_bad_flag : after (step (hearing (stand .txR1) [.byte 0x46])) (fun t => (t.seq, t.cf, t.cfv, t.pend)) =
    some (.txRecRst .p1, 0x46, true, some (.irTransmitError 0x46)) := by decide
/-- V-TX-14: a fault in recovery is the answer, and PEND is empty. -/
theorem test_fault_in_recovery :
    after (step (answering { stand (.txRecSmp .w) with pend := some (.irTransmitError 0x46) } [.fault 9]))
      (fun t => (t.seq, t.pend, t.answers)) = some (.rest, none, [.fail (.channelFault 9)]) := by decide
/-- R217. -/
theorem test_recovery_ends : after (step { stand (.txRecSmp .p2) with pend := some (.irTransmitError 0x46), mode := .idle })
    (fun t => (t.seq, t.mode, t.pend, t.answers)) = some (.rest, .sampling, none, [.fail (.irTransmitError 0x46)]) := by decide
/-- V-CON-2: FirmwareVersionError(2, 21). -/
theorem test_old_firmware :
    after (step (hearing { stand (.conFwr .r) with ready := false, mode := .idle } (delivers [0x56, 0x32, 0x32, 0x31])))
      (fun t => (t.seq, t.mode, t.ready, t.answers)) =
      some (.rest, .idle, false, [.fail (.firmwareVersionError 2 21)]) := by decide
/-- V-FWR-4: three bytes of four: PSM is stuck at FWR.R. -/
theorem test_short_response_hangs :
    after (step (hearing (stand (.fwr .r)) (delivers [0x56, 0x32, 0x32]))) (fun t => (t.seq, t.inEvents, t.answers)) =
      some (.fwr .r, delivers [0x56, 0x32, 0x32], []) := by decide
/-- Hardware reset in recovery (70_reset_and_hazards.md R241). -/
theorem test_hardware_reset : after (step { stand .txRH with rstIn := [0], pend := some .notReady, inEvents := [.byte 1] })
    (fun t => (t.seq, t.ready, t.mode, t.pend, t.inEvents)) = some (.rest, false, .idle, none, [.byte 1]) := by decide
/-- D23: the bound on RBUF refuses the run. -/
theorem test_receive_bound :
    step { (hearing (stand .rcvR) [.byte 1]) with cfg := { Config.default with rbufMax := some 0 } } =
      .refused .receiveBufferOverflow := by rfl

/-! ### witnesses: the hypotheses of each obligation are met together -/

/-- TX.WC with everything the invariant asks for. -/
theorem secondChunk_inv : { secondChunk with wsum := 32 }.Inv := by
  refine ⟨by decide, by decide, by decide, by decide, by decide, by decide, by decide, by decide, by decide, by decide,
    ?_, by decide, by decide, by decide, ?_, by decide, by decide, ?_⟩
  · rintro m ⟨⟩
  · rintro m ⟨⟩
  · rintro m h; cases m <;> first | rfl | exact absurd h (by decide)

theorem witness_hardware_reset : { stand .txRH with rstIn := [0, 3] }.rstIn = 0 :: [3] := rfl
theorem witness_status_port : (State.reset.hsv = false ∧ State.reset.bcv = false ∧ State.reset.cfv = false) ∧
    ({ base with hsv := true, bcv := true, cfv := true }.hsv = true ∧ { base with bcv := true }.bcv = true ∧
      { base with cfv := true }.cfv = true) := ⟨⟨rfl, rfl, rfl⟩, rfl, rfl, rfl⟩
/-- BUSY at rest and in an operation. -/
theorem test_busy : base.status.busy = false ∧ (stand .txP1).status.busy = true := by decide
/-- A busy step with a request waiting. -/
theorem witness_busy : { asks 2 [] with seq := .txP1 }.status.busy = true ∧
    step { asks 2 [] with seq := .txP1 } = .next (stepOf { asks 2 [] with seq := .txP1 }) := ⟨rfl, rfl⟩
theorem witness_decode_of_encode : (Instr.transmit []).wf = true ∧ (Instr.transmit [1]).wf = true ∧
    (Instr.data [1]).wf = true ∧ (Instr.data (List.replicate 32 1)).wf = true ∧ Instr.cmdIr.wf = true := by decide
theorem witness_accepted_words : decode (.request { op := 5, operand := [1] }) = .ok .receive ∧
    decode (.request { op := 6, operand := [1] }) = .ok (.transmit [1]) ∧ decode (.command [0x53]) = .ok .cmdSample ∧
    decode (.chunk (List.replicate 32 0)) = .ok (.data (List.replicate 32 0)) := by decide
theorem witness_fetch : (stand .rest).seq = .rest ∧
    ((Instr.cmdReset, (stand (.txRecRst .w)).seq, Pos.txRecRst .p2) ∈ commandSites ∧
      (Instr.cmdReset, [0x00, 0x00, 0x00, 0x00, 0x00]) ∈ commandStrings) ∧
    ((Instr.cmdTxStart, (stand .txW03).seq, Pos.txRH) ∈ commandSites ∧ (Instr.cmdTxStart, [0x03]) ∈ commandStrings) ∧
    secondChunk.seq = .txWC ∧
    ((stand .txRH).seq ≠ .rest ∧ (stand .txRH).seq ≠ .txWC ∧ ∀ x ∈ commandSites, x.2.1 ≠ (stand .txRH).seq) := by decide
theorem witness_step_runs : (answering (stand .txW26) [.done 1]).rstIn.head? ≠ some 0 ∧
    { asks 5 [] with rstIn := [1] }.rstIn.head? ≠ some 0 ∧
    fetch (answering (stand .txW26) [.done 1]) = some (.command [0x26]) ∧
    fetch { asks 5 [] with rstIn := [1] } = some (.request { op := 5, operand := [] }) ∧
    decode (.command [0x26]) = .ok .cmdTxHandshake ∧ decode (.request { op := 5, operand := [] }) = .ok .receive := by decide
theorem witness_request_while_busy : requestOf .illegal ≠ none ∧ requestOf (.transmit []) ≠ none ∧
    (stand .txP1).seq ≠ .rest := by decide
theorem witness_at_rest : base.seq = .rest ∧ base.ready = true ∧ base.quiet ∧ State.reset.seq = .rest ∧
    State.reset.ready = false := by decide
/-- With MAX_CODE_LEN at the adjusted length: V-VAL-9 and V-VAL-5. -/
theorem witness_transmit_loads :
    (2 ≤ [(0x00 : Byte), 0x10, 0xFF, 0xFF].length ∧ [(0x00 : Byte), 0x10, 0xFF, 0xFF].length % 2 = 0 ∧
      ∃ pre : List Byte, [0x00, 0x10, 0xFF, 0xFF] = pre ++ [0xFF, 0xFF]) ∧
    (2 ≤ [(0x01 : Byte), 0x02].length ∧ [(0x01 : Byte), 0x02].length % 2 = 0 ∧
      ¬ ∃ pre : List Byte, [0x01, 0x02] = pre ++ [0xFF, 0xFF]) ∧
    ∀ m, { base with cfg := { Config.default with maxCodeLen := some 4 } }.cfg.maxCodeLen = some m →
      [(0x01 : Byte), 0x02, 0xFF, 0xFF].length ≤ m := by
  refine ⟨⟨by decide, by decide, [0x00, 0x10], rfl⟩, ⟨by decide, by decide, ?_⟩, by rintro m ⟨⟩; decide⟩
  rintro ⟨pre, h⟩
  have hl := congrArg List.length h
  have : pre = [] := by cases pre with
    | nil => rfl
    | cons b bs => simp at hl
  subst this
  exact absurd h (by decide)
theorem witness_invalid_argument : ([] : List Byte).length < 2 ∧ [(1 : Byte)].length < 2 ∧
    2 ≤ [(1 : Byte), 2, 3].length ∧ [(1 : Byte), 2, 3].length % 2 = 1 := by decide
/-- TooLong: the operand fits MAX_CODE_LEN = 2 only with its sentinel in place. -/
theorem witness_too_long : { base with cfg := { Config.default with maxCodeLen := some 2 } }.cfg.maxCodeLen = some 2 ∧
    2 ≤ [(0x01 : Byte), 0x02].length ∧ 2 < [(0x01 : Byte), 0x02].length + 2 ∧
    (∃ pre : List Byte, [0x00, 0x10, 0xFF, 0xFF] = pre ++ [0xFF, 0xFF]) ∧ 2 < [(0x00 : Byte), 0x10, 0xFF, 0xFF].length :=
  ⟨rfl, by decide, by decide, ⟨[0x00, 0x10], rfl⟩, by decide⟩
theorem witness_reset_sequence : ((.txSmp (.rst .w), .txSmp (.rst .p2)) : Pos × Pos) ∈ resetSites ∧
    (answering (stand (.txSmp (.rst .w))) [.done 0]).outAns = .done 0 :: [] := ⟨by decide, rfl⟩
theorem witness_commands : (Instr.cmdIr, Pos.irmW, Pos.irmP) ∈ otherSites ∧ (Instr.cmdIr, [0x49, 0x52]) ∈ commandStrings ∧
    (∀ x ∈ otherSites, ∃ y ∈ commandStrings, y.1 = x.1) ∧ (answering (stand .irmW) [.done 0]).outAns = .done 0 :: [] :=
  ⟨by decide, by decide, by decide, rfl⟩
theorem witness_chunk : secondChunk.seq = .txWC ∧ secondChunk.cidx < secondChunk.clen ∧
    secondChunk.clen = secondChunk.cbuf.length ∧ (answering secondChunk [.done 40]).outAns = .done 40 :: [] := by decide
theorem witness_out_of_place : (∀ x ∈ commandSites, x.1 = .cmdIr → x.2.1 ≠ (stand .txW26).seq) ∧ (stand .rest).seq ≠ .txWC ∧
    [(1 : Byte)] ≠ secondChunk.slice ∧ secondChunk.seq = .txWC ∧ secondChunk.slice ≠ [] ∧
    (stand .txWC).seq = .txWC ∧ (stand .txWC).slice = [] := by decide
/-- Each form of the frames answers a next state, a refusal of the request and a fault of the channel among them. -/
theorem witness_host_frame :
    (∀ i ∈ [Instr.fwrev, .reset, .sample, .irmode, .illegal, .construct, .receive, .transmit [1, 2], .transmit []],
      (after (exec i base) id).isSome = true) ∧ (after (exec .receive State.reset) id).isSome = true := by decide
theorem witness_wire_frame :
    (∀ x ∈ commandSites, ∀ o ∈ [OutAnswer.done 1, .fault 7],
      (after (exec x.1 (answering (stand x.2.1) [o])) id).isSome = true) ∧
    (after (exec (.data secondChunk.slice) (answering secondChunk [.fault 7])) id).isSome = true := by decide

/-- A fault at a command, at the chunk, at the flush, at the head of a read and after two of its bytes, with a hardware reset
to come later. -/
theorem witness_faults :
    (∃ u, faultsWith (scheduled (answering (stand (.rst .w)) [.fault 7])) 7 u) ∧
    (∃ u, faultsWith (scheduled (answering secondChunk [.fault 7])) 7 u ∧
      u.inEvents = (scheduled (answering secondChunk [.fault 7])).inEvents) ∧
    (∃ u, faultsWith (scheduled (answering (stand .conF) [.fault 7])) 7 u) ∧
    (∃ u, faultsWith (scheduled (hearing (stand .txR3) [.fault 7])) 7 u ∧
      (scheduled (hearing (stand .txR3) [.fault 7])).inEvents.head? = some (.fault 7)) ∧
    (∃ u, faultsWith (scheduled (hearing (stand (.txRecSmp .r)) (delivers [1, 2] ++ [.fault 7]))) 7 u) ∧
    ∀ s : State, (scheduled s).noResetDue :=
  ⟨⟨_, .inl ⟨.cmdReset, .rst .p2, [0, 0, 0, 0, 0], [], by decide, by decide, rfl, rfl⟩⟩,
    ⟨_, .inr (.inl ⟨[], rfl, by decide, rfl, rfl⟩), rfl⟩, ⟨_, .inr (.inr (.inl ⟨[], rfl, rfl, rfl⟩))⟩,
    ⟨_, .inr (.inr (.inr ⟨3, [], [], by decide, by decide, rfl, rfl⟩)), rfl⟩,
    ⟨_, .inr (.inr (.inr ⟨3, [1, 2], [], by decide, by decide, rfl, rfl⟩))⟩, fun _ => by simp [scheduled]⟩
/-- The faults above stand in the three regions the statements tell apart. -/
theorem witness_regions : (Pos.rst .w ∉ guardedPositions ∧ Pos.rst .w ∉ recoveryPositions) ∧ Pos.txWC ∈ guardedPositions ∧
    Pos.txR3 ∈ guardedPositions ∧ Pos.txRecSmp .r ∈ recoveryPositions ∧ (Pos.conF ∉ guardedPositions ∧ Pos.conF ∉ recoveryPositions) := by decide
/-- The checks of the protected section: V-TX-6, V-TX-5, and a count that is not two hex digits. -/
theorem witness_checks :
    (∃ s : State, s = scheduled (hearing { stand .txRC with clen := 6, wsum := 5 } [.byte 0x3D]) ∧ s.noResetDue ∧
      s.seq = .txRC ∧ s.inEvents = .byte 0x3D :: [] ∧ s.clen ≤ s.cidx + 32 ∧ s.wsum ≠ s.clen) ∧
    (∃ s : State, s = scheduled (hearing (stand .txR1) [.byte 0x46]) ∧ s.noResetDue ∧ s.seq = .txR1 ∧
      s.inEvents = .byte 0x46 :: [] ∧ (0x46 : Byte) ≠ 0x63 ∧ (0x46 : Byte) ≠ 0x43) ∧
    (∃ s : State, s = scheduled (hearing { stand .txR3 with cfg := { Config.default with countDecode := .asciihex2 } }
        (delivers [0x74, 0x00, 0x06])) ∧ s.noResetDue ∧ s.seq = .txR3 ∧
      s.inEvents = delivers [0x74, 0x00, 0x06] ++ [] ∧ s.cfg.countDecode = .asciihex2 ∧ noHexDigit 0x00) :=
  ⟨⟨_, rfl, by decide⟩, ⟨_, rfl, by decide⟩, ⟨_, rfl, by decide⟩⟩
/-- A step that enters recovery. -/
theorem witness_enters_recovery : step (hearing (stand .txR1) [.byte 0x46]) =
    .next (stepOf (hearing (stand .txR1) [.byte 0x46])) ∧
    (stepOf (hearing (stand .txR1) [.byte 0x46])).seq = .txRecRst .p1 := ⟨rfl, by decide⟩
theorem witness_recovery :
    let s := { stand (.txRecRst .p1) with
      pend := some (.irTransmitError 0x46), outAns := [.done 5, .done 5, .done 1], inEvents := delivers [0x53, 0x30, 0x31] }
    s.quiet ∧ s.pend = some (.irTransmitError 0x46) ∧ s.outAns = .done 5 :: .done 5 :: .done 1 :: [] ∧
      [(0x53 : Byte), 0x30, 0x31].length = 3 ∧ s.inEvents = delivers [0x53, 0x30, 0x31] ++ [] := by decide
theorem witness_hangs : ((scheduled base).seq = .rest ∧ (scheduled base).opIn = [] ∧ (scheduled base).noResetDue) ∧
    (((stand (.fwr .r)).seq, 4) ∈ readSites ∧ [(0x56 : Byte), 0x32, 0x32].length < 4 ∧
      (scheduled (hearing (stand (.fwr .r)) (delivers [0x56, 0x32, 0x32]))).inEvents = delivers [0x56, 0x32, 0x32]) ∧
    ((Instr.cmdTxStart, (stand .txW03).seq, Pos.txRH) ∈ commandSites ∧ (stand .txW03).outAns = []) ∧
    ((stand .conF).seq = .conF ∧ secondChunk.slice ≠ [] ∧ secondChunk.outAns = []) := by decide
/-- The digits at both ends, a byte one below and one above them, the firmware floor and one below it, at both reads. -/
theorem witness_version : (0x30 : Byte).toNat = 0x30 + 0 ∧ (0x39 : Byte).toNat = 0x30 + 9 ∧
    (∃ v ∈ [(0x32 : Byte), 0x2F, 0x32], v.toNat < 0x30 ∨ 0x39 < v.toNat) ∧
    (∃ v ∈ [(0x32 : Byte), 0x32, 0x3A], v.toNat < 0x30 ∨ 0x39 < v.toNat) ∧ 22 ≤ 10 * 2 + 2 ∧ 10 * 2 + 1 < 22 ∧
    (∀ p ∈ [Pos.fwr .r, .conFwr .r], ∀ v ∈ [[(0x56 : Byte), 0x32, 0x2F, 0x32], [0x56, 0x32, 0x32, 0x31]],
      (scheduled (hearing (stand p) (delivers v))).seq = p ∧ (scheduled (hearing (stand p) (delivers v))).noResetDue ∧
      (scheduled (hearing (stand p) (delivers v))).inEvents = delivers v ++ []) := by decide
/-- V-CON-6: a non-digit byte at CON.FWR.R. -/
theorem test_construct_parse_fault :
    after (step (hearing { stand (.conFwr .r) with ready := false, mode := .idle } (delivers [0x56, 0x32, 0x3F, 0x32])))
      (fun t => (t.seq, t.ready, t.answers)) =
      some (.rest, false, [.fail (.versionParseFault [0x56, 0x32, 0x3F, 0x32])]) := by decide
/-- The firmware floor at 22 and 21 (V-CON-1, V-CON-2), from hardware reset. -/
theorem witness_construct :
    let s := { State.reset with
      opIn := [{ op := 0, operand := [] }], outAns := [.done 0, .done 5, .done 1, .done 5, .done 1],
      inEvents := delivers [0x56, 0x32, 0x32, 0x32] ++ delivers [0x53, 0x30, 0x31] }
    s.quiet ∧ s.seq = .rest ∧ s.opIn = { op := 0, operand := [] } :: [] ∧
      s.outAns = .done 0 :: .done 5 :: .done 1 :: .done 5 :: .done 1 :: [] ∧ 22 ≤ 10 * 2 + 2 ∧ 10 * 2 + 1 < 22 ∧
      (0x31 : Byte).toNat = 0x30 + 1 ∧ (0x32 : Byte).toNat = 0x30 + 2 ∧
      s.inEvents = delivers [0x56, 0x32, 0x32, 0x32] ++ delivers [0x53, 0x30, 0x31] ++ [] := by decide
theorem witness_fwrev :
    let s := { asks 1 [] with outAns := [.done 5, .done 1], inEvents := delivers [0x00, 0x31, 0x32, 0x32] }
    s.quiet ∧ s.seq = .rest ∧ s.ready = true ∧ s.opIn = { op := 1, operand := [] } :: [] ∧
      s.outAns = .done 5 :: .done 1 :: [] ∧ s.inEvents = delivers [0x00, 0x31, 0x32, 0x32] ++ [] := by decide
/-- RESET, SAMPLE and IRMODE from MODE = Transmit. -/
theorem witness_mode_operations :
    let s := fun op => { asks op [] with
      mode := .transmit, outAns := [.done 5, .done 1], inEvents := delivers [0x00, 0x00, 0x00] }
    (s 2).quiet ∧ (s 2).seq = .rest ∧ (s 2).ready = true ∧ (s 2).opIn = { op := 2, operand := [] } :: [] ∧
      (s 3).opIn = { op := 3, operand := [] } :: [] ∧ (s 4).opIn = { op := 4, operand := [] } :: [] ∧
      (s 2).outAns = .done 5 :: [.done 1] ∧ (s 3).outAns = .done 5 :: .done 1 :: [] ∧
      (s 3).inEvents = delivers [0x00, 0x00, 0x00] ++ [] := by decide
theorem witness_sampling_response : ((.txRecSmp .r, .txRecSmp .p2) : Pos × Pos) ∈ sampleReadSites ∧
    [(0xFF : Byte), 0xFF, 0xFF].length = 3 ∧
    (scheduled (hearing (stand (.txRecSmp .r)) (delivers [0xFF, 0xFF, 0xFF]))).noResetDue ∧
    (scheduled (hearing (stand (.txRecSmp .r)) (delivers [0xFF, 0xFF, 0xFF]))).inEvents =
      delivers [0xFF, 0xFF, 0xFF] ++ [] := by decide
/-- The receive loop, with RBUF_MAX unset, one short of full, and full. -/
theorem witness_receive_loop :
    let s := fun (m : Option Nat) => { (scheduled (hearing (stand .rcvR) [.byte 0xFF])) with
      cfg := { Config.default with rbufMax := m }, rbuf := [0x00, 0xFF], rcnt := 2, prev := 0xFF }
    (s none).noResetDue ∧ (s none).seq = .rcvR ∧ (s none).inEvents = .byte 0xFF :: [] ∧ (s none).cfg.rbufMax = none ∧
      (s (some 3)).cfg.rbufMax = some 3 ∧ (s (some 3)).rbuf.length < 3 ∧
      (s (some 2)).cfg.rbufMax = some 2 ∧ 2 ≤ (s (some 2)).rbuf.length := by decide
/-- V-RCV-2 (the least stop) and V-RCV-10 (none). -/
theorem witness_receive :
    let s := fun xs => { asks 5 [] with
      outAns := [.done 5, .done 1], inEvents := delivers [0x53, 0x30, 0x31] ++ delivers xs ++ [] }
    (s []).quiet ∧ (s []).seq = .rest ∧ (s []).ready = true ∧ (s []).cfg.rbufMax = none ∧
      (s []).opIn = { op := 5, operand := [] } :: [] ∧ (s []).outAns = .done 5 :: .done 1 :: [] ∧
      firstStopsAt [0xFF, 0xFF, 0xFF] [(0xFF : Byte), 0xFF, 0xFF].length ∧
      (∀ k ≤ [(0xFF : Byte), 0xFF].length, ¬ stopsAt [0xFF, 0xFF] k) := by decide
theorem witness_setup : (scheduled (stand .txW03)).noResetDue ∧ (stand .txW03).seq = .txW03 ∧ (stand .txRH).seq = .txRH ∧
    (stand .txRH).inEvents = [] ∧ (hearing (stand .txRH) [.fault 7]).inEvents = .fault 7 :: [] ∧
    (answering (stand .txW03) [.fault 7]).outAns = .fault 7 :: [] := by decide
theorem witness_handshake :
    exec .cmdTxStart (answering (stand .txW03) [.done 1]) =
      .next (stepOf (answering (stand .txW03) [.done 1])) ∧
    exec (.data secondChunk.slice) (answering secondChunk [.done 2]) =
      .next (stepOf (answering secondChunk [.done 2])) ∧
    (scheduled (stand .txRC)).noResetDue ∧ (scheduled (stand .txRC)).seq = .txRC := ⟨rfl, rfl, by decide, rfl⟩
/-- TX.P2 after a TRANSMIT of [1, 2]. -/
def beforeData : State :=
  { stand .txP2 with mode := .transmit, hsv := true, cbuf := [0x01, 0x02, 0xFF, 0xFF], clen := 4 }
theorem beforeData_inv : beforeData.Inv := by
  refine ⟨by decide, by decide, by decide, by decide, by decide, by decide, by decide, by decide, by decide, by decide,
    ?_, by decide, by decide, by decide, ?_, by decide, by decide, ?_⟩
  · rintro m ⟨⟩
  · rintro m ⟨⟩
  · rintro m h; cases m <;> first | rfl | exact absurd h (by decide)
theorem witness_data_phase : beforeData.Inv ∧ beforeData.seq = .txP2 ∧ (scheduled beforeData).noResetDue ∧
    (scheduled beforeData).seq = .txP2 := ⟨beforeData_inv, rfl, by decide, rfl⟩
/-- The three ways on from a chunk's handshake: CIDX + 32 just below CLEN, then at CLEN with WSUM right and wrong. -/
theorem witness_chunk_handshake :
    let s := fun clen wsum => { (scheduled (hearing (stand .txRC) [.byte 0x3E])) with clen := clen, wsum := wsum }
    (s 33 32).noResetDue ∧ (s 33 32).seq = .txRC ∧ (s 33 32).inEvents = .byte 0x3E :: [] ∧
      (s 33 32).cidx + 32 < (s 33 32).clen ∧ ¬ (s 32 32).cidx + 32 < (s 32 32).clen ∧ (s 32 32).wsum = (s 32 32).clen ∧
      (s 32 31).wsum ≠ (s 32 31).clen := by decide
theorem witness_chunk_slice : { secondChunk with wsum := 32, outAns := [.done 2], rstIn := [3] }.Inv ∧
    { secondChunk with wsum := 32, outAns := [.done 2], rstIn := [3] }.noResetDue ∧
    { secondChunk with wsum := 32, outAns := [.done 2], rstIn := [3] }.seq = .txWC :=
  ⟨⟨secondChunk_inv.1, secondChunk_inv.2, secondChunk_inv.3, secondChunk_inv.4, secondChunk_inv.5, secondChunk_inv.6,
    secondChunk_inv.7, secondChunk_inv.8, secondChunk_inv.9, secondChunk_inv.10, secondChunk_inv.11, secondChunk_inv.12,
    secondChunk_inv.13, secondChunk_inv.14, secondChunk_inv.15, secondChunk_inv.16, secondChunk_inv.17,
    secondChunk_inv.18⟩, by decide, rfl⟩
/-- Both count decodes, the hex digits at the ends of their ranges, and the bytes next to them, which are none. -/
theorem witness_report :
    (scheduled (hearing (stand .txR3) (delivers [0x74, 0x00, 0x06]))).cfg.countDecode = .raw16be ∧
    (scheduled (hearing (stand .txR3) (delivers [0x74, 0x00, 0x06]))).inEvents = delivers [0x74, 0x00, 0x06] ++ [] ∧
    (scheduled (stand .txR3)).noResetDue ∧
    (∀ x ∈ [((0x30 : Byte), 0), (0x39, 9), (0x41, 10), (0x46, 15), (0x61, 10), (0x66, 15)], hexDigit x.1 x.2) ∧
    (∀ r ∈ [(0x00 : Byte), 0x2F, 0x3A, 0x40, 0x47, 0x60, 0x67, 0xFF], noHexDigit r) := by decide
/-- A byte outside noHexDigit is a hex digit (R92). -/
theorem test_hex_digits (b : Byte) (h : ¬ noHexDigit b) : ∃ a, hexDigit b a := by
  unfold noHexDigit at h
  by_cases h1 : b.toNat ≤ 0x39
  · exact ⟨b.toNat - 0x30, .inl (by omega)⟩
  by_cases h2 : b.toNat ≤ 0x46
  · exact ⟨b.toNat - 0x41 + 10, .inr (by omega)⟩
  · exact ⟨b.toNat - 0x61 + 10, .inr (by omega)⟩
theorem witness_flag : (scheduled (hearing (stand .txR1) [.byte 0x63])).inEvents = .byte 0x63 :: [] ∧
    (scheduled (stand .txR1)).noResetDue ∧
    ((0x43 : Byte) = 0x63 ∨ (0x43 : Byte) = 0x43) ∧ (0x42 : Byte) ≠ 0x63 ∧ (0x42 : Byte) ≠ 0x43 ∧
    step (hearing (stand .txR3) (delivers [0x74, 0x00, 0x06])) =
      .next (stepOf (hearing (stand .txR3) (delivers [0x74, 0x00, 0x06]))) :=
  ⟨rfl, by decide, by decide, by decide, by decide, rfl⟩
/-- The closing sampling entry at its reset write and at its read (V-TX-13, V-TX-12), with the channel's fault to come. -/
def closing (m : Smp) (mode : Mode) : State :=
  { stand (.txSmp m) with
    mode := mode, hsv := true, bcv := true, bc := 6, cfv := true, cf := 0x43,
    outAns := [.fault 7], inEvents := [.fault 7], rstIn := [3] }
theorem closing_inv : (closing (.rst .w) .transmit).Inv ∧ (closing .r .idle).Inv := by
  constructor
  all_goals
    refine ⟨by decide, by decide, by decide, by decide, by decide, by decide, by decide, by decide, by decide, by decide,
      fun _ _ => ⟨rfl, rfl⟩, by decide, by decide, by decide, ?_, by decide, by decide, ?_⟩
    · rintro m ⟨⟩
    · rintro m h; cases m <;> first | rfl | exact absurd h (by decide)
theorem witness_success_exit :
    (∃ s : State,
      s = { stand (.txSmp (.rst .p1)) with outAns := [.done 5, .done 1], inEvents := delivers [0x53, 0x30, 0x31] } ∧
        s.quiet ∧ s.seq = .txSmp (.rst .p1) ∧ s.outAns = .done 5 :: .done 1 :: [] ∧
        s.inEvents = delivers [0x53, 0x30, 0x31] ++ []) ∧
    (closing (.rst .w) .transmit).noResetDue ∧ (∃ u, faultsWith (closing (.rst .w) .transmit) 7 u) ∧
    (∃ u, faultsWith (closing .r .idle) 7 u) ∧ (closing .r .idle).inEvents.head? = some (.fault 7) :=
  ⟨⟨_, rfl, by decide⟩, by decide, ⟨_, .inl ⟨.cmdReset, .txSmp (.rst .p2), [0, 0, 0, 0, 0], [], by decide, by decide, rfl, rfl⟩⟩,
    ⟨_, .inr (.inr (.inr ⟨3, [], [], by decide, by decide, rfl, rfl⟩))⟩, rfl⟩
/-- V-TX-7's data phase: two chunks whose counts 30 and 34 sum right. -/
theorem witness_transmit :
    let operand := List.replicate 62 (1 : Byte)
    let pairs : List (Nat × Byte) := [(30, (0x3E : Byte))] ++ [(34, (0x3E : Byte))]
    let s := { asks 6 operand with
      outAns := OutAnswer.done 1 :: OutAnswer.done 1 :: OutAnswer.done 1 :: (pairs.map fun (p : Nat × Byte) => OutAnswer.done p.1) ++
        OutAnswer.done 5 :: OutAnswer.done 1 :: [],
      inEvents := delivers (0x3E :: pairs.map Prod.snd) ++ delivers [0x74, 0x00, 0x40, 0x63] ++
        delivers [0x53, 0x30, 0x31] ++ [] }
    s.quiet ∧ s.seq = .rest ∧ s.ready = true ∧ s.cfg.countDecode = .raw16be ∧ s.cfg.maxCodeLen = none ∧
      s.opIn = { op := 6, operand := operand } :: [] ∧ operand.length % 2 = 0 ∧
      pairs.length = chunkCount (adjustCode operand).length ∧
      (pairs.map Prod.fst).sum = (adjustCode operand).length := by decide
/-- V-TX-8's counts, over a code of 34 bytes. -/
theorem witness_wrong_count :
    let pairs : List (Nat × Byte) := [(31, (0x3E : Byte))] ++ [(2, (0x3E : Byte))]
    let s := { secondChunk with
      cidx := 0, wsum := 0, outAns := (pairs.map fun (p : Nat × Byte) => OutAnswer.done p.1) ++ [],
      inEvents := delivers (pairs.map Prod.snd) ++ [] }
    s.quiet ∧ s.seq = .txWC ∧ s.cidx = 0 ∧ s.wsum = 0 ∧ s.clen = s.cbuf.length ∧ s.cbuf ≠ [] ∧
      pairs.length = chunkCount s.clen ∧ (pairs.map Prod.fst).sum ≠ s.clen := by decide
theorem witness_chunks_join : (List.replicate 34 (1 : Byte)).length % 2 = 0 ∧
    1 < chunkCount (List.replicate 34 (1 : Byte)).length := by decide
/-- A change of MODE at each kind of transition point. -/
theorem witness_mode_changes :
    ∀ s ∈ [{ base with rstIn := [0] }, answering (stand (.rst .w)) [.done 5],
        { stand (.smp .p2) with mode := .idle }, { stand .irmP with mode := .transmit },
        hearing (stand .txRH) [.byte 1]],
      (after (step s) State.mode).isSome = true ∧ (stepOf s).mode ≠ s.mode := by decide
/-- A change of READY at each place it changes. -/
theorem witness_ready_changes :
    ∀ s ∈ [{ base with rstIn := [0] }, asks 0 [], { stand (.conSmp .p2) with ready := false }],
      (after (step s) State.ready).isSome = true ∧ (stepOf s).ready ≠ s.ready := by decide
/-- A change of each data register, and of PEND at recovery entry, at its end and at TRANSMIT's acceptance. -/
theorem witness_data_registers :
    (stepOf (hearing (stand .txRH) [.byte 1])).hs ≠ (stand .txRH).hs ∧
    (stepOf (hearing (stand .txR3) (delivers [0, 0, 1]))).bc ≠ (stand .txR3).bc ∧
    (stepOf (hearing (stand .txR1) [.byte 0x63])).cf ≠ (stand .txR1).cf ∧
    (stepOf { asks 0 [] with hsv := true, bcv := true, cfv := true }).hsv = false ∧
    (stepOf { stand .txP2 with cidx := 5, wsum := 5 }).cidx ≠ 5 ∧
    (stepOf (asks 6 [1, 2])).cbuf ≠ (asks 6 [1, 2]).cbuf ∧
    (stepOf (hearing (stand .rcvR) [.byte 1])).rbuf ≠ (stand .rcvR).rbuf ∧
    (stepOf (hearing (stand (.fwr .r)) (delivers [0, 0x31, 0x32, 0x32]))).vbuf ≠ (stand (.fwr .r)).vbuf ∧
    (stepOf (hearing (stand .txR1) [.byte 0x46])).pend = some (.irTransmitError 0x46) ∧
    (stepOf { stand (.txRecSmp .p2) with pend := some .notReady }).pend = none ∧
    (stepOf { asks 6 [1, 2] with pend := some .notReady }).pend = none := by decide
/-- A next state, a fault and a refusal, for the statements that nothing depends on MODE or HS. -/
theorem witness_decides_nothing : step (stand .txP1) = .next (stepOf (stand .txP1)) ∧
    step (stand .txWC) = .fault .emptyChunk ∧
    step { (hearing (stand .rcvR) [.byte 1]) with cfg := { Config.default with rbufMax := some 0 } } =
      .refused .receiveBufferOverflow := ⟨rfl, rfl, rfl⟩
/-- From an operation to REST, on within it, from REST into one, and from REST to REST. -/
theorem witness_answers : ((stand (.rst .p2)).seq ≠ .rest ∧ (stepOf (stand (.rst .p2))).seq = .rest) ∧
    ((stand .txP1).seq ≠ .rest ∧ (stepOf (stand .txP1)).seq ≠ .rest) ∧
    ((asks 2 []).seq = .rest ∧ (stepOf (asks 2 [])).seq ≠ .rest) ∧
    ((asks 7 []).seq = .rest ∧ (stepOf (asks 7 [])).seq = .rest) := by decide
/-- A write and a write that faults. -/
theorem witness_transactions :
    (stepOf (answering (stand .txW26) [.done 1])).trace = [.write [0x26] 1] ∧
    (stepOf (answering secondChunk [.fault 7])).trace = [.writeFault [0xFF, 0xFF] 7] := by decide
theorem witness_invariant_step : { secondChunk with wsum := 32 }.Inv ∧
    step { secondChunk with wsum := 32 } = .next (stepOf { secondChunk with wsum := 32 }) ∧
    { secondChunk with wsum := 32 }.cfg.rbufMax = none := ⟨secondChunk_inv, rfl, rfl⟩

end Sys2Proof.Tests
end

section
/-! BUSY is SEQ not at REST, and no busy step takes a request (10_state.md R28). Of the moves of
`step_cases`, only some that start at REST change what waits at the OP port. -/

namespace Sys2Proof.Machine

variable {s t : State}

/-- The completion of a read leaves the waiting requests alone. -/
theorem ReadMoves.opIn_eq {bs : List Byte} (h : ReadMoves bs s t) : t.opIn = s.opIn := by
  cases h <;> rfl

/-- Away from REST no move of the sequencer takes a request: the moves that take one all start at REST. -/
theorem Moves.opIn_eq (hb : s.seq ≠ .rest) (h : Moves s t) : t.opIn = s.opIn := by
  cases h with
  | illegal _ _ hs | notReady _ _ hs | construct _ _ hs | begins _ _ _ hs | receive _ _ hs | invalid _ _ _ hs
  | transmit _ _ hs => exact absurd hs hb
  | outFault | readFault => simp only [raise_opIn, State.log_opIn]
  | read k bs rest hm _ _ _ ht => exact (readDone_cases (s := { s with inEvents := rest }.log (.read k bs)) hm ht).opIn_eq
  | waits | command | chunk | flush | pause | endsPlain | constructs | receives | dataPhase | transmits | recovers => rfl

/-- A step with SEQ not at REST, a due hardware reset included, takes no request (R28; 70_reset_and_hazards.md R241). -/
theorem step_opIn_of_busy (hb : s.seq ≠ .rest) (h : step s = .next t) : t.opIn = s.opIn := by
  rcases step_cases h with ⟨-, rfl⟩ | ⟨-, hm⟩
  · exact s.acceptReset_opIn
  · exact hm.opIn_eq (s := s.tick) hb

/-- The BUSY the ST port shows is SEQ ≠ REST (R28). -/
theorem State.status_busy_iff (s : State) : s.status.busy = true ↔ s.seq ≠ .rest := decide_eq_true_iff

/-- Settles O4: the ST port's BUSY is SEQ ≠ REST by definition, and a busy step moves by `step_opIn_of_busy`. -/
theorem busyIsSeqNotAtRestAndTakesNoRequest : Obligations.BusyIsSeqNotAtRestAndTakesNoRequest :=
  ⟨State.status_busy_iff, fun s _ hb h => step_opIn_of_busy (s.status_busy_iff.mp hb) h⟩

end Sys2Proof.Machine
end

section
/-! The chunk write at TX.WC and its handshake at TX.RC (20_memory.md R70): what slice of CBUF is written, and what the two
steps change. -/

namespace Sys2Proof.Machine

variable {s : State}

/-! ### the slice -/

/-- Where CLEN is the length of CBUF, the slice has min(32, CLEN - CIDX) bytes (R70). -/
theorem State.slice_length (hm : Memory.wf s) : s.slice.length = min 32 (s.clen - s.cidx) := by
  obtain ⟨hc, -⟩ := hm
  rw [State.slice_eq_chunk, chunk_length]
  omega

/-- In the chunk loop the slice is not empty: CIDX is below CLEN there (R70; 10_state.md R30). -/
theorem State.Inv.slice_length_pos (hi : s.Inv) (hs : s.seq = .txWC) : 1 ≤ s.slice.length := by
  obtain ⟨hlt, -⟩ := hi.chunking (.inl hs)
  rw [State.slice_length hi.memory]
  omega

/-! ### the two steps -/

/-- The step at TX.WC that the channel answers with a count writes the slice and adds the count to WSUM (43_transmit.md
R175, R176). -/
theorem step_chunk {n : Nat} {rest : List OutAnswer} (hd : s.noResetDue) (hs : s.seq = .txWC) (hne : s.slice ≠ [])
    (ho : s.outAns = .done n :: rest) :
    step s = .next { s with
      wsum := s.wsum + n, seq := .txRC, outAns := rest, trace := s.trace ++ [.write s.slice n],
      rstIn := countDown s.rstIn } := by
  rw [State.slice_eq_chunk] at hne ⊢
  rw [step_of_noResetDue hd, stepSequencer_chunk (s := s.tick) hs hne, execData_here (s := s.tick) hs hne,
    chWrite_done (s := s.tick) ho, advance_of_sets_none (by simp [hs, Pos.sets])]
  simp [hs, Pos.next, State.log, State.tick, State.chunk]

/-- A chunk's handshake byte takes HS, and CIDX moves by 32 in all three ways on (43_transmit.md R177): the next chunk, the
report, or recovery where WSUM is not CLEN. -/
theorem chunkHandshakeDone_eq (bs : List Byte) (hs : s.seq = .txRC) :
    chunkHandshakeDone bs s = .next { s with
      hs := byteAt bs 0, hsv := true, cidx := s.cidx + 32
      seq := if s.cidx + 32 < s.clen then .txWC else if s.wsum = s.clen then .txP3 else .txRecRst .p1
      pend := if s.cidx + 32 < s.clen ∨ s.wsum = s.clen then s.pend
        else some (.writeCountMismatch s.wsum s.clen) } := by
  by_cases hmore : s.cidx + 32 < s.clen
  · simp [chunkHandshakeDone, Config.chunkMax, hmore]
  by_cases hsum : s.wsum = s.clen
  · simp [chunkHandshakeDone, Config.chunkMax, hmore, hsum]
  · simp [chunkHandshakeDone, Config.chunkMax, hmore, hsum, raise, hs, Pos.region]

/-- The step at TX.RC with the handshake byte at the head of the stream is the completion of that read. -/
theorem step_chunkHandshake {h : Byte} {rest : List InEvent} (hd : s.noResetDue) (hs : s.seq = .txRC)
    (he : s.inEvents = .byte h :: rest) :
    step s = chunkHandshakeDone [h] ({ s.tick with inEvents := rest }.log (.read 1 [h])) := by
  rw [step_read hd (k := 1) (by rw [hs]; rfl) (bs := [h]) rfl he]
  simp [readDone, State.tick, hs]

/-- Settles O44: the slice's length from the invariant, and the two steps of the chunk loop. -/
theorem chunkSliceIsTheEffectiveAddress : Obligations.ChunkSliceIsTheEffectiveAddress := by
  refine ⟨fun s hi hd hs n rest ho => ?_, fun s h rest hd hs he => ?_⟩
  · have hlen := State.slice_length hi.memory
    have hpos := hi.slice_length_pos hs
    exact ⟨hlen, hpos, by omega, step_chunk hd hs (List.length_pos_iff.mp hpos) ho⟩
  · exact ⟨_, _, (step_chunkHandshake hd hs he).trans (chunkHandshakeDone_eq [h] hs)⟩

end Sys2Proof.Machine
end

section
/-! The reads of the sampling response (30_encoding.md R88): the three bytes are dropped, and the position moves on. -/

namespace Sys2Proof.Machine

variable {s : State}

/-- The response is a read of three bytes, and the listed position follows (41_mode_transitions.md R131). -/
theorem sampleReadSites_micro_next :
    ∀ x ∈ sampleReadSites, x.1.micro = .read Config.protoRespLen ∧ x.1.next = x.2 := by decide

/-- The completion of a sampling response moves SEQ on, whatever the bytes (R88). -/
theorem readDone_sampleReadSites {q : Pos} (bs : List Byte) (hx : (s.seq, q) ∈ sampleReadSites) :
    readDone bs s = .next { s with seq := q } := by
  have hadvance : readDone bs s = .next s.advance := by
    have hsite := hx
    simp only [sampleReadSites, List.mem_cons, List.not_mem_nil, or_false, Prod.mk.injEq] at hsite
    rcases hsite with h | h | h | h | h <;> simp only [readDone, h.1]
  obtain ⟨-, hnext⟩ := sampleReadSites_micro_next _ hx
  rw [hadvance, advance_of_sets_none (sampleReadSites_sets hx _), hnext]

/-- Settles O37: each site reads three bytes, and the completion of its read drops them. -/
theorem samplingResponseIsDropped : Obligations.SamplingResponseIsDropped := by
  rintro s p q b rest hd hx rfl hlen he
  obtain ⟨hmicro, -⟩ := sampleReadSites_micro_next _ hx
  rw [step_read hd hmicro hlen he]
  exact readDone_sampleReadSites (s := { s.tick with inEvents := rest }.log (.read 3 b)) b hx

end Sys2Proof.Machine
end

section
/-! The handshake bytes of TRANSMIT (30_encoding.md R89): the writes that they follow, and the step that stores one. -/

namespace Sys2Proof.Machine

variable {s t : State}

/-! ### the writes -/

/-- Only TX.W03 issues CMD_TX_START (43_transmit.md R171). -/
theorem Pos.micro_cmdTxStart : ∀ p : Pos, p.micro = .command .cmdTxStart → p = .txW03 := Pos.of_all (by decide)

/-- Where CMD_TX_START is answered with a count, the setup handshake is read next (43_transmit.md R173). -/
theorem execCmdTxStart_seq {n : Nat} {rest : List OutAnswer} (h : execCmdTxStart s = .next t)
    (ho : s.outAns = .done n :: rest) : t.seq = .txRH := by
  obtain ⟨hm, ⟨hnone, -⟩ | ⟨_, _, -, rfl⟩ | ⟨_, _, hfault, -⟩⟩ := emitCommand_cases h
  · simp [ho] at hnone
  · simp [State.advance, Pos.micro_cmdTxStart _ hm, Pos.next]
  · simp [ho] at hfault

/-- DATA goes on at TX.WC only, with a chunk that is not empty, and is then one ChWrite of it (R175, R176). -/
theorem execData_cases {bs : List Byte} (h : execData bs s = .next t) :
    s.seq = .txWC ∧ chWrite bs (fun n u => .next { u with wsum := u.wsum + n }.advance) s = .next t := by
  unfold execData at h
  split_ifs at h with hhere
  exact ⟨hhere.1, h⟩

/-- Where a chunk is answered with a count, its handshake is read next (R177). -/
theorem execData_seq {bs : List Byte} {n : Nat} {rest : List OutAnswer} (h : execData bs s = .next t)
    (ho : s.outAns = .done n :: rest) : t.seq = .txRC := by
  obtain ⟨hs, hw⟩ := execData_cases h
  rw [chWrite_done ho] at hw
  cases hw
  simp [State.advance, hs, Pos.next]

/-! ### the reads -/

/-- The step at TX.RH with the handshake byte at the head of the stream stores it, and MODE becomes Transmit whatever the
byte (R173). -/
theorem step_setupHandshake {h : Byte} {rest : List InEvent} (hd : s.noResetDue) (hs : s.seq = .txRH)
    (he : s.inEvents = .byte h :: rest) :
    step s = .next { s with
      hs := h, hsv := true, mode := .transmit, seq := .txP2, inEvents := rest, trace := s.trace ++ [.read 1 [h]],
      rstIn := countDown s.rstIn } := by
  rw [step_read hd (k := 1) (by rw [hs]; rfl) (bs := [h]) rfl he]
  simp [readDone, setupHandshakeDone, State.advance, State.assignMode, State.log, State.tick, hs, Pos.sets, Pos.next,
    byteAt]

/-- Settles O41: the position after either write, then the two reads, whose MODE, CIDX, SEQ and PEND do not mention the
byte. -/
theorem handshakeByteIsStoredUnchecked : Obligations.HandshakeByteIsStoredUnchecked := by
  refine ⟨fun s t h ⟨_, _, ho⟩ => execCmdTxStart_seq h ho, fun s t bs h ⟨_, _, ho⟩ => execData_seq h ho,
    fun s hd hs => ?_⟩
  rcases hs with hs | hs
  · exact ⟨.transmit, s.cidx, .txP2, s.pend, fun h rest =>
      step_setupHandshake (s := { s with inEvents := .byte h :: rest }) hd hs rfl⟩
  · exact ⟨s.mode, s.cidx + 32,
      if s.cidx + 32 < s.clen then .txWC else if s.wsum = s.clen then .txP3 else .txRecRst .p1,
      if s.cidx + 32 < s.clen ∨ s.wsum = s.clen then s.pend else some (.writeCountMismatch s.wsum s.clen),
      fun h rest => (step_chunkHandshake (s := { s with inEvents := .byte h :: rest }) hd hs rfl).trans
        (chunkHandshakeDone_eq [h] hs)⟩

end Sys2Proof.Machine
end

section
/-! The sub-sequences RESET and SAMPLE wherever they stand in line in an operation (41_mode_transitions.md R130, R131): a run
that no fault and no hardware reset interrupts. -/

namespace Sys2Proof.Machine

variable {s : State} {p q : Pos} {o : Option Mode}

/-! ### one step -/

/-- A pause that leads neither to REST nor into the data phase only moves on (10_state.md R27 a). -/
theorem pauseDone_goesOn (hrest : s.seq.next.micro ≠ .wait) (hdata : s.seq.next.micro ≠ .chunk) :
    pauseDone s = .next s.advance := by
  unfold pauseDone
  split <;> rename_i hs
  case h_6 => exact absurd (congrArg (·.next.micro) hs) hdata
  case h_9 => rfl
  all_goals exact absurd (congrArg (·.next.micro) hs) hrest

/-- The step at such a pause, from `p` to `q`. -/
theorem step_pause_goesOn (hd : s.quiet) (hs : s.seq = p) (hm : p.micro = .pause) (hn : p.next = q)
    (ho : p.sets s.cfg = o) (hrest : q.micro ≠ .wait) (hdata : q.micro ≠ .chunk) :
    step s = .next { s with mode := o.getD s.mode, seq := q, trace := s.trace ++ [.pause] } := by
  subst hs hn ho
  rw [step_quiet hd, stepSequencer_pause hm, pauseDone_goesOn (s := s.log .pause) hrest hdata]
  rfl

/-- The step at a command that the channel answers with a count, from `p` to `q` (30_encoding.md R85). -/
theorem step_command_done {c : Instr} {n : Nat} {rest : List OutAnswer} (hd : s.quiet) (hs : s.seq = p)
    (hm : p.micro = .command c) (hn : p.next = q) (ho : p.sets s.cfg = o) (ha : s.outAns = .done n :: rest) :
    step s = .next { s with
      mode := o.getD s.mode, seq := q, outAns := rest, trace := s.trace ++ [.write c.wireBytes n] } := by
  subst hs hn ho
  rw [step_quiet hd, stepSequencer_command hm, emitCommand_here hm, chWrite_done ha]
  rfl

/-! ### the reset sequence -/

/-- RESET stands in line, its positions named by `x`, and `after` follows it (R130). -/
structure ResetInline (x : Rst → Pos) (after : Pos) : Prop where
  micro : ∀ r, (x r).micro = r.micro
  next : ∀ r, (x r).next = r.next x after
  sets : ∀ cfg r, (x r).sets cfg = r.sets

/-- The reset sequence where the operation goes on after it: MODE <- Idle, and the five zero bytes written (R130). -/
theorem run_resetInline {x : Rst → Pos} {after : Pos} {n : Nat} {outs : List OutAnswer} (hx : ResetInline x after)
    (hrest : after.micro ≠ .wait) (hdata : after.micro ≠ .chunk) (hd : s.quiet) (hs : s.seq = x .p1)
    (ha : s.outAns = .done n :: outs) :
    run 3 s = .next { s with mode := .idle, seq := after, outAns := outs, trace := s.trace ++ resetTrace n } := by
  have hw : (x .w).micro = .command .cmdReset := hx.micro .w
  calc run 3 s = run 2 { s with seq := x .w, trace := s.trace ++ [.pause] } :=
        run_succ (step_pause_goesOn hd hs (hx.micro _) (hx.next _) (hx.sets _ _) (by simp [Rst.next, hw])
          (by simp [Rst.next, hw]))
    _ = run 1 { s with
          mode := .idle, seq := x .p2, outAns := outs
          trace := s.trace ++ [.pause] ++ [.write [0, 0, 0, 0, 0] n] } :=
        run_succ (step_command_done (c := .cmdReset) (o := some .idle) hd rfl hw (hx.next _) (hx.sets _ _) ha)
    _ = run 0 { s with
          mode := .idle, seq := after, outAns := outs
          trace := s.trace ++ [.pause] ++ [.write [0, 0, 0, 0, 0] n] ++ [.pause] } :=
        run_succ (step_pause_goesOn (o := none) hd rfl (hx.micro _) (hx.next _) (hx.sets _ _) hrest hdata)
    _ = _ := by simp [run, resetTrace]

/-! ### the sampling entry -/

/-- SAMPLE stands in line, its positions named by `x`, and `after` follows it (R131). -/
structure SampleInline (x : Smp → Pos) (after : Pos) : Prop where
  micro : ∀ m, (x m).micro = m.micro
  next : ∀ m, (x m).next = m.next x after
  sets : ∀ cfg m, (x m).sets cfg = m.sets
  response : (x .r, x .p2) ∈ sampleReadSites

/-- The reset sequence stands in line in the sampling entry (R131). -/
theorem SampleInline.reset {x : Smp → Pos} {after : Pos} (hx : SampleInline x after) :
    ResetInline (fun r => x (.rst r)) (x .w) :=
  ⟨fun r => hx.micro (.rst r), fun r => hx.next (.rst r), fun cfg r => hx.sets cfg (.rst r)⟩

/-- The sampling entry up to its last pause: the device is reset, MODE is Idle, and the response is read and dropped
(R131; 30_encoding.md R88). -/
theorem run_sampleInline {x : Smp → Pos} {after : Pos} {a b : Nat} {r : List Byte} {outs : List OutAnswer}
    {ins : List InEvent} (hx : SampleInline x after) (hd : s.quiet) (hs : s.seq = x (.rst .p1))
    (ha : s.outAns = .done a :: .done b :: outs) (hr : r.length = 3) (he : s.inEvents = delivers r ++ ins) :
    run 6 s = .next { s with
      mode := .idle, seq := x .p2, outAns := outs, inEvents := ins
      trace := s.trace ++ resetTrace a ++ [.write [0x53] b, .pause, .read 3 r] } := by
  have hw : (x .w).micro = .command .cmdSample := hx.micro .w
  have hread : (x .r).micro = .read 3 := hx.micro .r
  calc run 6 s = run 3 { s with mode := .idle, seq := x .w, outAns := .done b :: outs, trace := s.trace ++ resetTrace a } :=
        run_add (a := 3) (b := 3) (run_resetInline hx.reset (by simp [hw]) (by simp [hw]) hd hs ha)
    _ = run 2 { s with
          mode := .idle, seq := x .p1, outAns := outs
          trace := s.trace ++ resetTrace a ++ [.write [0x53] b] } :=
        run_succ (step_command_done (c := .cmdSample) (o := none) hd rfl hw (hx.next _) (hx.sets _ _) rfl)
    _ = run 1 { s with
          mode := .idle, seq := x .r, outAns := outs
          trace := s.trace ++ resetTrace a ++ [.write [0x53] b] ++ [.pause] } :=
        run_succ (step_pause_goesOn (o := none) hd rfl (hx.micro _) (hx.next _) (hx.sets _ _) (by simp [hread])
          (by simp [hread]))
    _ = run 0 { s with
          mode := .idle, seq := x .p2, outAns := outs, inEvents := ins
          trace := s.trace ++ resetTrace a ++ [.write [0x53] b] ++ [.pause] ++ [.read 3 r], rstIn := countDown s.rstIn } :=
        run_succ (samplingResponseIsDropped _ _ _ _ _ (by simp [hd]) hx.response rfl hr he)
    _ = _ := by rw [hd]; simp [run, countDown]

end Sys2Proof.Machine
end

section
/-! Answers are only ever added (30_encoding.md R81): a run that ends in a hang tells what every shorter and every longer run
has answered. -/

namespace Sys2Proof.Machine

variable {s t u : State}

/-- Taking a failure retracts no answer. -/
theorem raise_answers_prefix (e : Exn) : s.answers <+: (raise e s).answers := by
  cases hr : s.seq.region with
  | guarded => simp [raise_guarded s e hr]
  | recovery => simp [raise_recovery s e hr]
  | plain => simp [raise_plain s e hr]

/-- The completion of a read retracts no answer. -/
theorem ReadMoves.answers_prefix {bs : List Byte} (h : ReadMoves bs s t) : s.answers <+: t.answers := by
  cases h with
  | versionFails | versionAnswer => exact List.prefix_append _ _
  | _ => exact List.prefix_rfl

/-- No move of the sequencer retracts an answer: each either keeps them or delivers one more. -/
theorem Moves.answers_prefix (h : Moves s t) : s.answers <+: t.answers := by
  cases h with
  | outFault x rest e => exact raise_answers_prefix (s := { s with outAns := rest }.log e) _
  | readFault k x rest => exact raise_answers_prefix (s := { s with inEvents := rest }.log (.readFault k x)) _
  | read k bs rest hm _ _ _ ht =>
    exact (readDone_cases (s := { s with inEvents := rest }.log (.read k bs)) hm ht).answers_prefix
  | illegal | notReady | invalid | endsPlain | constructs | receives | transmits | recovers =>
    exact List.prefix_append _ _
  | waits | construct | begins | receive | transmit | command | chunk | flush | pause | dataPhase => exact List.prefix_rfl

/-- No step retracts an answer, a hardware reset included (70_reset_and_hazards.md R249). -/
theorem step_answers_prefix (h : step s = .next t) : s.answers <+: t.answers := by
  rcases step_cases h with ⟨-, rfl⟩ | ⟨-, hm⟩
  · exact List.prefix_rfl
  · exact hm.answers_prefix (s := s.tick)

/-- No run retracts an answer. -/
theorem run_answers_prefix {k : Nat} (h : run k s = .next t) : s.answers <+: t.answers := by
  induction k generalizing s with
  | zero => cases h; exact List.prefix_rfl
  | succ k ih =>
    cases hs : step s with
    | next v => exact (step_answers_prefix hs).trans (ih (run_succ hs ▸ h))
    | fault r => simp [run, hs] at h
    | refused r => simp [run, hs] at h

/-- A state that steps to itself is where every run from it ends. -/
theorem run_of_step_self (h : step u = .next u) (k : Nat) : run k u = .next u := by
  induction k with
  | zero => rfl
  | succ k ih => rw [run_succ h, ih]

/-- Where a run hangs with no answer delivered, no run delivers one: a shorter one has it ahead, and a longer one is still
there (60_exceptions.md R221). -/
theorem run_answers_of_hang {m k : Nat} (hm : run m s = .next u) (hu : step u = .next u) (ha : u.answers = s.answers)
    (hk : run k s = .next t) : t.answers = s.answers := by
  have hlong : run m t = .next u := by
    rw [← run_add hk, Nat.add_comm, run_add hm, run_of_step_self hu]
  have hle := run_answers_prefix hlong
  rw [ha] at hle
  exact hle.eq_of_length_le (run_answers_prefix hk).length_le

end Sys2Proof.Machine
end

section
/-! RECEIVE (42_receive.md R150, R151): the way to the read loop, the loop over a stream, and its two ends. -/

namespace Sys2Proof.Machine

variable {s : State}

/-! ### the detector -/

/-- The detector fires at the byte at which the stream stops, where PREV is the byte before it (R151). -/
theorem terminatorFires_iff_stopsAt {xs : List Byte} {prev : Byte} (b : Byte)
    (hp : xs ≠ [] → prev = byteAt xs (xs.length - 1)) :
    terminatorFires (xs.length + 1) prev b = true ↔ stopsAt (xs ++ [b]) (xs.length + 1) := by
  have hlast : byteAt (xs ++ [b]) xs.length = b := by simp [byteAt]
  by_cases h : 3 ≤ xs.length + 1
  · have hprev : byteAt (xs ++ [b]) (xs.length - 1) = prev := by
      rw [hp (List.ne_nil_of_length_pos (by omega)), byteAt, List.getD_append _ _ _ _ (by omega)]; rfl
    simp [terminatorFires, Config.termMinCount, Config.sentinelByte, stopsAt, hlast, hprev, h]
  · simp [terminatorFires, Config.termMinCount, stopsAt, h]

/-! ### the read loop -/

/-- The step of the read loop at a byte that RBUF has room for (R150). -/
theorem step_received {b : Byte} {rest : List InEvent} (hd : s.noResetDue) (hs : s.seq = .rcvR)
    (hf : receiveFull s.cfg s.rbuf = false) (he : s.inEvents = .byte b :: rest) :
    step s = .next { s with
      rbuf := s.rbuf ++ [b], rcnt := s.rcnt + 1, prev := b
      seq := if terminatorFires (s.rcnt + 1) s.prev b then .rcvP2 else .rcvR
      inEvents := rest, trace := s.trace ++ [.read 1 [b]], rstIn := countDown s.rstIn } := by
  rw [step_read hd (k := 1) (by rw [hs]; rfl) (bs := [b]) rfl he]
  cases hfire : terminatorFires (s.rcnt + 1) s.prev b <;>
    simp [readDone, receiveReadDone, State.appendReceived, State.log, State.tick, byteAt, hs, hf, hfire]

/-- The read loop, entered from `s`, once it has read the bytes `xs`, with `rest` still to come: SEQ has left the loop where
`xs` stops it (R150). -/
def State.receiving (s : State) (xs : List Byte) (rest : List InEvent) : State :=
  { s with
    seq := if stopsAt xs xs.length then .rcvP2 else .rcvR
    rbuf := xs, rcnt := xs.length, prev := xs.getLastD s.prev, inEvents := rest
    trace := s.trace ++ xs.map (fun x => .read 1 [x]) }

/-- PREV is the last byte read (10_state.md R32). -/
theorem State.receiving_prev {xs : List Byte} (rest : List InEvent) (h : xs ≠ []) :
    (s.receiving xs rest).prev = byteAt xs (xs.length - 1) := by
  have hpos := List.length_pos_iff.mpr h
  simp [State.receiving, byteAt, List.getLast?_eq_getElem?, hpos]

/-- The loop at one more byte: the detector is asked about the stream read so far (R150, R151). -/
theorem step_receiving {xs : List Byte} {b : Byte} {rest : List InEvent} (hd : s.quiet) (hm : s.cfg.rbufMax = none)
    (hgo : ¬ stopsAt xs xs.length) :
    step (s.receiving xs (.byte b :: rest)) = .next (s.receiving (xs ++ [b]) rest) := by
  have hfire :
      terminatorFires ((s.receiving xs (.byte b :: rest)).rcnt + 1) (s.receiving xs (.byte b :: rest)).prev b = true ↔
        stopsAt (xs ++ [b]) (xs ++ [b]).length := by
    rw [List.length_append]; exact terminatorFires_iff_stopsAt b (State.receiving_prev _)
  rw [step_received (s := s.receiving xs (.byte b :: rest)) (b := b) (rest := rest) (by simp [State.receiving, hd])
    (if_neg hgo) (by simp [State.receiving, receiveFull, hm]) rfl]
  simp only [hfire]
  simp [State.receiving, hd, countDown]

/-- The loop reads a stream that does not stop before its end, byte by byte (R151). -/
theorem run_receiving {xs : List Byte} {rest : List InEvent} (hd : s.quiet) (hm : s.cfg.rbufMax = none)
    (hgo : ∀ k < xs.length, ¬ stopsAt xs k) :
    run xs.length (s.receiving [] (delivers xs ++ rest)) = .next (s.receiving xs rest) := by
  induction xs using List.reverseRecOn generalizing rest with
  | nil => rfl
  | append_singleton xs b ih =>
    have hgo' : ∀ k ≤ xs.length, ¬ stopsAt xs k := fun k hk => by
      rw [← stopsAt_append (ys := [b]) hk]; exact hgo k (by simp; omega)
    have hxs := ih (rest := .byte b :: rest) fun k hk => hgo' k hk.le
    have hb := step_receiving (b := b) (rest := rest) hd hm (hgo' _ le_rfl)
    rw [List.length_append, List.length_singleton, delivers, List.map_append, List.append_assoc]
    exact (run_add hxs).trans (run_succ hb)

/-! ### the way in and the two ends -/

/-- The sampling entry of RECEIVE, before its read loop. -/
theorem sampleInline_receive : SampleInline .rcvSmp .rcvR := ⟨fun _ => rfl, fun _ => rfl, fun _ _ => rfl, by decide⟩

/-- RECEIVE is accepted at REST with READY = 1 (R150). -/
theorem step_receive_accepted {r : Request} {reqs : List Request} (hd : s.quiet) (hs : s.seq = .rest)
    (hy : s.ready = true) (hr : s.opIn = r :: reqs) (hop : r.op = 5) :
    step s = .next { s with opIn := reqs, rbuf := [], rcnt := 0, seq := .rcvP1 } := by
  have hdecode : decodeRequest r = .receive := by simp [decodeRequest, hop]
  rw [step_quiet hd, stepSequencer_request hs hr, hdecode, exec, execReceive, atRest_rest hs,
    ifReady_ready (s := s.takeRequest) hy]
  simp [begin, State.clearReceived, State.takeRequest, hr]

/-- The state in which RECEIVE enters its read loop, but for the loop's own registers: the request and the two counts taken,
the sampling response `q` dropped (R150). -/
def State.atReceiveLoop (s : State) (reqs : List Request) (a b : Nat) (q : List Byte) (outs : List OutAnswer) : State :=
  { s with
    opIn := reqs, mode := .sampling, outAns := outs
    trace := s.trace ++ [.pause] ++ sampleTrace a b q }

section
variable {r : Request} {reqs : List Request} {a b : Nat} {q xs : List Byte} {outs : List OutAnswer} {rest : List InEvent}
  (hd : s.quiet) (hs : s.seq = .rest) (hy : s.ready = true) (hr : s.opIn = r :: reqs) (hop : r.op = 5)
  (ha : s.outAns = .done a :: .done b :: outs) (hq : q.length = 3)
include hd hs hy hr hop ha hq

/-- RECEIVE from acceptance to its read loop. -/
theorem run_receive_entry (he : s.inEvents = delivers q ++ rest) :
    run 9 s = .next ((s.atReceiveLoop reqs a b q outs).receiving [] rest) := by
  calc run 9 s = run 8 { s with opIn := reqs, rbuf := [], rcnt := 0, seq := .rcvP1 } :=
        run_succ (step_receive_accepted hd hs hy hr hop)
    _ = run 7 { s with
          opIn := reqs, rbuf := [], rcnt := 0, seq := .rcvSmp (.rst .p1), trace := s.trace ++ [.pause] } :=
        run_succ (step_pause_goesOn (o := none) hd rfl rfl rfl rfl (by decide) (by decide))
    _ = run 1 { s with
          opIn := reqs, rbuf := [], rcnt := 0, mode := .idle, seq := .rcvSmp .p2, outAns := outs, inEvents := rest
          trace := s.trace ++ [.pause] ++ resetTrace a ++ [.write [0x53] b, .pause, .read 3 q] } :=
        run_add (a := 6) (b := 1) (run_sampleInline sampleInline_receive hd rfl ha hq he)
    _ = run 0 _ :=
        run_succ (step_pause_goesOn (q := .rcvR) (o := some .sampling) hd rfl rfl rfl rfl (by decide) (by decide))
    _ = _ := by simp [run, State.receiving, State.atReceiveLoop, sampleTrace]

/-- RECEIVE from acceptance over a stream that does not stop it before its end. -/
theorem run_receive (hm : s.cfg.rbufMax = none) (he : s.inEvents = delivers q ++ (delivers xs ++ rest))
    (hgo : ∀ k < xs.length, ¬ stopsAt xs k) :
    run (9 + xs.length) s = .next ((s.atReceiveLoop reqs a b q outs).receiving xs rest) :=
  (run_add (run_receive_entry hd hs hy hr hop ha hq he)).trans
    (run_receiving (s := s.atReceiveLoop reqs a b q outs) hd hm hgo)

end

/-- The loop's exit: the last pause, then RBUF as the answer (R150). -/
theorem step_receiving_stopped {xs : List Byte} {rest : List InEvent} (hd : s.quiet) (hx : stopsAt xs xs.length) :
    step (s.receiving xs rest) =
      .next (((s.receiving xs rest).log .pause).finish (.ok (.bytes xs))) := by
  have hs : (s.receiving xs rest).seq = .rcvP2 := if_pos hx
  rw [step_quiet (by exact hd), stepSequencer_pause (by rw [hs]; rfl)]
  simp [pauseDone, hs, receiveDone]
  rfl

/-- The loop waits where the stream has ended without a stop (60_exceptions.md R221). -/
theorem step_receiving_waits {xs : List Byte} (hd : s.quiet) (hx : ¬ stopsAt xs xs.length) :
    step (s.receiving xs []) = .next (s.receiving xs []) := by
  have hs : (s.receiving xs []).seq = .rcvR := if_neg hx
  rw [step_quiet (by exact hd), stepSequencer_read (k := 1) (by rw [hs]; rfl), chRead_waiting rfl]

/-- A stream without a stop has none in its first `k` bytes (R151). -/
theorem not_stopsAt_take {xs : List Byte} (h : ∀ j ≤ xs.length, ¬ stopsAt xs j) (k : Nat) :
    ∀ j ≤ (xs.take k).length, ¬ stopsAt (xs.take k) j := fun j hj => by
  rw [← stopsAt_append (ys := xs.drop k) hj, List.take_append_drop]
  exact h j (hj.trans (List.length_take_le' k xs))

/-- Settles O39: both halves enter the read loop alike. Where the stream stops, the loop leaves it at its last byte and the
last pause answers; where it does not, the loop reads all of it and hangs there, and a hang tells what every run answered. -/
theorem receiveReturnsUpToTheFirstTerminator : Obligations.ReceiveReturnsUpToTheFirstTerminator := by
  intro s r reqs a b q xs outs hd hs hy hm hr hop ha hq
  refine ⟨fun ins he ⟨hstop, hgo⟩ => ?_, fun he hnone => ⟨fun k hk => ?_, fun k t ht => ?_⟩⟩
  · have hloop := run_receive hd hs hy hr hop ha hq hm (he.trans (List.append_assoc ..)) hgo
    have hexit := step_receiving_stopped (s := s.atReceiveLoop reqs a b q outs) (rest := ins) hd hstop
    have hrun := (run_add (b := 1) hloop).trans (run_succ hexit)
    rw [show 9 + xs.length + 1 = xs.length + 10 by omega] at hrun
    refine ⟨_, hrun, ?_⟩
    simp [agreesAtRest, State.persistent, State.receiving, State.atReceiveLoop, State.log, State.finish, hs]
  · have hlen : (xs.take k).length = k := List.length_take_of_le hk
    have hgo := not_stopsAt_take hnone k
    have hcut : delivers xs = delivers (xs.take k) ++ delivers (xs.drop k) := by
      rw [delivers, delivers, delivers, ← List.map_append, List.take_append_drop]
    have hloop := run_receive hd hs hy hr hop ha hq hm (hcut ▸ he) fun j hj => hgo j hj.le
    rw [hlen] at hloop
    exact ⟨_, hloop, if_neg (hgo _ le_rfl), rfl, rfl⟩
  · have hloop := run_receive hd hs hy hr hop ha hq hm (rest := []) (by simpa using he) fun j hj => hnone j hj.le
    exact run_answers_of_hang hloop (step_receiving_waits hd (hnone _ le_rfl)) rfl ht

end Sys2Proof.Machine
end

section
/-! One step at a transaction, with a hardware reset that may come later (20_memory.md R51 to R54): the rules that TRANSMIT's
proofs share. -/

namespace Sys2Proof.Machine

variable {s u : State}

/-- The step at a command is its ChWrite (30_encoding.md R85). -/
theorem step_command {c : Instr} (hd : s.noResetDue) (hm : s.seq.micro = .command c) :
    step s = chWrite c.wireBytes (fun _ t => .next t.advance) s.tick := by
  rw [step_of_noResetDue hd, stepSequencer_command (s := s.tick) hm, emitCommand_here (s := s.tick) hm]

/-- The step at a pause is its completion (R59). -/
theorem step_pause (hd : s.noResetDue) (hm : s.seq.micro = .pause) : step s = pauseDone (s.tick.log .pause) := by
  rw [step_of_noResetDue hd, stepSequencer_pause (s := s.tick) hm]

/-- The step at a read for which nothing has arrived changes nothing but the count to the next hardware reset
(60_exceptions.md R221). -/
theorem step_read_unanswered {k : Nat} (hd : s.noResetDue) (hm : s.seq.micro = .read (k + 1)) (he : s.inEvents = []) :
    step s = .next s.tick := by
  rw [step_of_noResetDue hd, stepSequencer_read (s := s.tick) hm, chRead_waiting]
  rw [State.tick_inEvents, he]
  rfl

/-- A transaction that faults changes the channel's two sides and the trace, and nothing else (20_memory.md R54). -/
theorem faultsWith_frame {x : FaultInfo} (h : faultsWith s x u) :
    ∃ outs ins tr, u = { s with outAns := outs, inEvents := ins, trace := tr } := by
  rcases h with ⟨_, _, _, _, -, -, -, rfl⟩ | ⟨_, -, -, -, rfl⟩ | ⟨_, -, -, rfl⟩ | ⟨_, _, _, -, -, -, rfl⟩ <;>
    exact ⟨_, _, _, rfl⟩

/-- A pause cannot fault (R59). -/
theorem faultsWith_micro_ne_pause {x : FaultInfo} (h : faultsWith s x u) : s.seq.micro ≠ .pause := by
  rcases h with ⟨c, q, _, _, hsite, -, -, -⟩ | ⟨_, hs, -, -, -⟩ | ⟨_, hs, -, -⟩ | ⟨k, _, _, hsite, -, -, -⟩
  · simp [commandSites_micro _ _ hsite rfl]
  · simp [hs, Pos.micro]
  · simp [hs, Pos.micro]
  · simp [(readSites_micro _ _ hsite rfl).1]

/-- A channel fault in the protected section enters recovery, and MODE is not touched (60_exceptions.md R216). -/
theorem step_fault_guarded {x : FaultInfo} (hd : s.noResetDue) (hg : s.seq.region = .guarded) (h : faultsWith s x u) :
    step s = .next { u with
      pend := some (.channelFault x), seq := .txRecRst .p1, rstIn := countDown s.rstIn } := by
  obtain ⟨hstep, -⟩ := step_fault hd h
  obtain ⟨_, _, _, rfl⟩ := faultsWith_frame h
  exact hstep.trans (congrArg _ (raise_guarded _ _ hg))

/-- Elsewhere outside recovery a channel fault is the operation's answer (R215). -/
theorem step_fault_plain {x : FaultInfo} (hd : s.noResetDue) (hp : s.seq.region = .plain) (h : faultsWith s x u) :
    step s = .next { u with
      seq := .rest, answers := s.answers ++ [.fail (.channelFault x)], rstIn := countDown s.rstIn } := by
  obtain ⟨hstep, -⟩ := step_fault hd h
  obtain ⟨_, _, _, rfl⟩ := faultsWith_frame h
  exact hstep.trans (congrArg _ (raise_plain _ _ hp))

end Sys2Proof.Machine
end

section
/-! TRANSMIT's setup handshake (43_transmit.md R173): CMD_TX_START, and the read that follows it. -/

namespace Sys2Proof.Machine

variable {s : State}

/-- CMD_TX_START answered with a count goes on to the handshake read, the count discarded (R173). -/
theorem step_txStart {n : Nat} {rest : List OutAnswer} (hd : s.noResetDue) (hs : s.seq = .txW03)
    (ho : s.outAns = .done n :: rest) :
    step s = .next { s with
      seq := .txRH, outAns := rest, trace := s.trace ++ [.write [0x03] n], rstIn := countDown s.rstIn } := by
  rw [step_command (c := .cmdTxStart) hd (by rw [hs]; rfl), chWrite_done (s := s.tick) ho,
    advance_of_sets_none (by simp [hs, Pos.sets])]
  simp [hs, Pos.next, State.log, State.tick, Instr.wireBytes, encode, FetchWord.wireBytes]

/-- Settles O40: the two transactions answered, the read unanswered, and each of the two faulting in the protected
section. -/
theorem setupHandshakeEntersTransmitMode : Obligations.SetupHandshakeEntersTransmitMode := by
  intro s hd
  refine ⟨fun hs n rest ho => step_txStart hd hs ho, fun hs h rest he => step_setupHandshake hd hs he,
    fun hs he t ht => ?_, fun hs x rest ho => ?_, fun hs x rest he => ?_⟩
  · rw [step_read_unanswered (k := 0) hd (by rw [hs]; rfl) he] at ht
    cases ht
    exact ⟨hs, rfl, rfl, rfl, rfl, rfl⟩
  · exact step_fault_guarded hd (by rw [hs]; rfl)
      (.inl ⟨.cmdTxStart, .txRH, [0x03], rest, by rw [hs]; decide, by decide, ho, rfl⟩)
  · exact step_fault_guarded hd (by rw [hs]; rfl)
      (.inr (.inr (.inr ⟨1, [], rest, by rw [hs]; decide, by decide, he, rfl⟩)))

end Sys2Proof.Machine
end

section
/-! The start of TRANSMIT's data phase (43_transmit.md R174): where it starts, and what it will write. -/

namespace Sys2Proof.Machine

variable {s : State}

/-! ### the chunks of a code -/

/-- The first `n` chunks, joined, are the first `32 * n` bytes of the code (R175). -/
theorem flatMap_chunkOf_range (code : List Byte) (n : Nat) :
    (List.range n).flatMap (chunkOf code) = code.take (32 * n) := by
  induction n with
  | zero => rfl
  | succ n ih =>
    rw [List.range_succ, List.flatMap_append, ih, List.flatMap_singleton, chunkOf, Nat.mul_succ, List.take_add]

/-- The chunks of a code, joined, are the code (R175). -/
theorem flatMap_chunkOf_chunkCount (code : List Byte) :
    (List.range (chunkCount code.length)).flatMap (chunkOf code) = code := by
  rw [flatMap_chunkOf_range, List.take_of_length_le]
  unfold chunkCount
  omega

/-- With CLEN the length of CBUF and CIDX at `32 * k`, the slice is chunk `k` of CBUF (R175; 20_memory.md R70). -/
theorem State.slice_eq_chunkOf (hm : Memory.wf s) {k : Nat} (hi : s.cidx = 32 * k) : s.slice = chunkOf s.cbuf k := by
  obtain ⟨hc, -⟩ := hm
  rw [State.slice_eq_chunk, State.chunk, hc, hi, chunkAt_eq_chunkOf]

/-- At TX.WC the word fetched is the slice (R70). -/
theorem fetch_slice (hs : s.seq = .txWC) : fetch s = some (.chunk s.slice) := by
  simp [fetch, hs, Pos.micro, State.slice_eq_chunk]

/-! ### the first step -/

/-- The pause TX.P2 opens the data phase (R174). -/
theorem step_dataPhaseBegins (hd : s.noResetDue) (hs : s.seq = .txP2) :
    step s = .next { s with
      cidx := 0, wsum := 0, seq := .txWC, trace := s.trace ++ [.pause], rstIn := countDown s.rstIn } := by
  rw [step_pause hd (by rw [hs]; rfl)]
  simp [pauseDone, dataPhaseBegins, State.advance, State.assignMode, State.log, State.tick, hs, Pos.sets, Pos.next]

/-- Settles O42: the pause's assignments; then, by the invariant's shape of the code, the sentinel and the chunks. -/
theorem dataPhaseBeginsAtZero : Obligations.DataPhaseBeginsAtZero := by
  refine ⟨fun s hd hs => step_dataPhaseBegins hd hs, fun s hi hs => ?_⟩
  obtain ⟨-, -, hend, -⟩ := hi.code (by rw [hs]; rfl)
  obtain ⟨hlen, -⟩ := hi.memory
  have hslice (k : Nat) : { s with seq := .txWC, cidx := 32 * k }.slice = chunkOf s.cbuf k :=
    State.slice_eq_chunkOf (s := { s with seq := .txWC, cidx := 32 * k }) hi.memory rfl
  refine ⟨(endsInSentinel_iff _).mp hend, fun k => ⟨hslice k, ?_⟩, ?_⟩
  · rw [fetch_slice rfl, hslice]
  · rw [hlen, flatMap_chunkOf_chunkCount]

end Sys2Proof.Machine
end

section
/-! TRANSMIT's completion flag (43_transmit.md R179): the read at TX.R1, and that nothing stands between it and TX.R3. -/

namespace Sys2Proof.Machine

variable {s t : State}

/-- The flags that pass are 'c' and 'C' (30_encoding.md R93). -/
theorem completionOk_iff (f : Byte) : completionOk f = true ↔ f = 0x63 ∨ f = 0x43 := by simp [completionOk]

/-- A passing flag is stored and leads to the closing sampling entry (R179). -/
theorem flagReadDone_pass {f : Byte} (hs : s.seq = .txR1) (hf : completionOk f = true) :
    flagReadDone [f] s = .next { s with cf := f, cfv := true, seq := .txSmp (.rst .p1) } := by
  simp [flagReadDone, byteAt, hf, State.advance, State.assignMode, hs, Pos.sets, Pos.next]

/-- A failing flag is stored and enters recovery, to be reported (R179). -/
theorem flagReadDone_fail {f : Byte} (hs : s.seq = .txR1) (hf : completionOk f = false) :
    flagReadDone [f] s =
      .next { s with cf := f, cfv := true, pend := some (.irTransmitError f), seq := .txRecRst .p1 } := by
  simp [flagReadDone, byteAt, hf, raise, hs, Pos.region]

/-- The step at TX.R1 with the flag at the head of the stream is the completion of that read. -/
theorem step_flag {f : Byte} {rest : List InEvent} (hd : s.noResetDue) (hs : s.seq = .txR1)
    (he : s.inEvents = .byte f :: rest) :
    step s = flagReadDone [f] ({ s.tick with inEvents := rest }.log (.read 1 [f])) := by
  rw [step_read hd (k := 1) (by rw [hs]; rfl) (bs := [f]) rfl he]
  simp [readDone, State.tick, hs]

/-- The completion of the report's head leads to the flag, or to recovery where the count does not parse (R178). -/
theorem ReadMoves.seq_of_reportHead {bs : List Byte} (h : ReadMoves bs s t) (hs : s.seq = .txR3) :
    t.seq = .txR1 ∨ t.seq = .txRecRst .p1 := by
  cases h with
  | report => exact .inl rfl
  | reportFails => exact .inr rfl
  | dropped q hx => simp [hs, sampleReadSites] at hx
  | versionFails h | versionAnswer h | versionGoesOn h | received h | setup h | handshake h | flagPasses h
  | flagFails h => simp [hs] at h

/-- The step at TX.R3 waits there, goes to TX.R1, or enters recovery: there is no pause in between (R178, R179). -/
theorem step_reportHead_seq (hd : s.noResetDue) (hs : s.seq = .txR3) (h : step s = .next t) :
    t.seq = .txR3 ∨ t.seq = .txR1 ∨ t.seq = .txRecRst .p1 := by
  have hm : s.seq.micro = .read Config.reportHeadLen := by rw [hs]; rfl
  rw [step_of_noResetDue hd, stepSequencer_read (s := s.tick) hm] at h
  rcases chRead_cases h with rfl | ⟨bs, rest, -, -, h⟩ | ⟨x, rest, rfl⟩
  · exact .inl hs
  · have hmoves := readDone_cases (s := { s.tick with inEvents := rest }.log (.read _ bs)) hm h
    exact .inr (hmoves.seq_of_reportHead hs)
  · rw [raise_guarded]
    · exact .inr (.inr rfl)
    · simp [hs, Pos.region]

/-- Settles O46: the flag passes or fails by its success set; then the positions that follow TX.R3. -/
theorem completionFlagDecidesSuccess : Obligations.CompletionFlagDecidesSuccess := by
  refine ⟨fun s f rest hd hs he => ⟨fun hf => ?_, fun hlower hupper => ?_⟩, fun _ _ => step_reportHead_seq⟩
  · exact (step_flag hd hs he).trans (flagReadDone_pass hs ((completionOk_iff f).mpr hf))
  · have hf : completionOk f = false := Bool.eq_false_iff.mpr fun h => ((completionOk_iff f).mp h).elim hlower hupper
    exact (step_flag hd hs he).trans (flagReadDone_fail hs hf)

end Sys2Proof.Machine
end

section
/-! TRANSMIT's success exit (43_transmit.md R180): the closing sampling entry with its answer, and a fault in it. -/

namespace Sys2Proof.Machine

variable {s : State}

/-- The sampling entry that closes TRANSMIT. -/
theorem sampleInline_transmit : SampleInline .txSmp .rest := ⟨fun _ => rfl, fun _ => rfl, fun _ _ => rfl, by decide⟩

/-- The last pause of TRANSMIT: MODE <- Sampling, and the report is the answer (R180). -/
theorem step_transmitDone (hd : s.noResetDue) (hs : s.seq = .txSmp .p2) :
    step s = .next { s with
      mode := .sampling, seq := .rest, answers := s.answers ++ [.ok (.report s.bc s.cf)]
      trace := s.trace ++ [.pause], rstIn := countDown s.rstIn } := by
  rw [step_pause hd (by rw [hs]; rfl)]
  simp [pauseDone, transmitDone, State.assignMode, State.finish, State.log, State.tick, hs, Pos.sets, Smp.sets]

/-- The success exit from its first position, with a channel that answers (R180). -/
theorem run_successExit {a b : Nat} {q : List Byte} {outs : List OutAnswer} {ins : List InEvent} (hd : s.quiet)
    (hs : s.seq = .txSmp (.rst .p1)) (ha : s.outAns = .done a :: .done b :: outs) (hq : q.length = 3)
    (he : s.inEvents = delivers q ++ ins) :
    run 7 s = .next { s with
      mode := .sampling, seq := .rest, answers := s.answers ++ [.ok (.report s.bc s.cf)], outAns := outs
      inEvents := ins, trace := s.trace ++ sampleTrace a b q } := by
  rw [run_add (a := 6) (b := 1) (run_sampleInline sampleInline_transmit hd hs ha hq he),
    run_succ (step_transmitDone (by simp [hd]) rfl)]
  simp [run, sampleTrace, hd, countDown]

/-- Where the sampling entry has a transaction and was entered in Transmit, MODE is Transmit up to its reset write and Idle
after it (R180; 41_mode_transitions.md R133). -/
theorem Smp.held_transmit_of_micro_ne_pause {m : Smp} (h : m.micro ≠ .pause) :
    m.held (some .transmit) = some (if m = .rst .w then .transmit else .idle) := by
  cases m with
  | rst r => cases r with
    | p1 => exact absurd rfl h
    | w => rfl
    | p2 => rfl
  | _ => rfl

/-- Settles O47: the run by `run_successExit`; a fault aborts by `step_fault_plain`, where the invariant gives MODE, the
empty PEND and the two valid bits. -/
theorem successExitReturnsTheReport : Obligations.SuccessExitReturnsTheReport := by
  refine ⟨fun s a b q outs ins hd hs ha hq he => ⟨_, run_successExit hd hs ha hq he, rfl⟩,
    fun s u m x hi hd hs hf => ?_⟩
  have hplain : s.seq.region = .plain := by rw [hs]; rfl
  have hmode : s.mode = if m = .rst .w then .transmit else .idle := by
    have hm : m.micro ≠ .pause := by simpa [hs, Pos.micro] using faultsWith_micro_ne_pause hf
    exact hi.mode _ (by rw [hs]; exact Smp.held_transmit_of_micro_ne_pause hm)
  have hpend : s.pend = none := by simpa [hplain] using hi.pending
  obtain ⟨hcfv, -⟩ := hi.success m hs
  obtain ⟨hbcv, -⟩ := hi.reported
  obtain ⟨outs, ins, tr, rfl⟩ := faultsWith_frame hf
  refine ⟨_, ins, step_fault_plain hd hplain hf, fun _ => rfl, ?_, rfl, hbcv hcfv, rfl, hcfv⟩
  rw [← hmode, ← hpend]

end Sys2Proof.Machine
end

section
/-! InvalidArgument (60_exceptions.md R212): a TRANSMIT operand that the check refuses is answered at acceptance, and nothing
else happens. -/

namespace Sys2Proof.Machine

variable {s : State}

/-- An operand that is too short or of odd length does not pass the check (43_transmit.md R170). -/
theorem checkCode_of_short_or_odd (cfg : Config) {code : List Byte} (h : code.length < 2 ∨ code.length % 2 = 1) :
    ∃ why, checkCode cfg code = some why := by
  by_cases hshort : code.length < 2
  · exact ⟨.tooShort, if_pos hshort⟩
  · have hodd : code.length % 2 ≠ 0 := by omega
    exact ⟨.oddLength, by simp [checkCode, hshort, hodd]⟩

/-- TRANSMIT with an operand that does not pass takes the request and answers InvalidArgument; no register changes (R212). -/
theorem exec_transmit_refused {code : List Byte} {why : ArgReason} (hs : s.seq = .rest) (hy : s.ready = true)
    (hc : checkCode s.cfg code = some why) :
    exec (.transmit code) s =
      .next { s with opIn := s.opIn.tail, answers := s.answers ++ [.fail (.invalidArgument why)] } := by
  have hc' : checkCode s.takeRequest.cfg code = some why := hc
  rw [exec, execTransmit, atRest_rest hs, ifReady_ready (s := s.takeRequest) hy, hc']
  exact congrArg _ (raise_at_rest (s := s.takeRequest) hs _)

/-- Settles O17: the check refuses the operand, for whichever reason, and a refused operand is only answered. -/
theorem invalidArgumentTouchesNothing : Obligations.InvalidArgumentTouchesNothing := by
  intro s code hs hy hlen
  obtain ⟨why, hc⟩ := checkCode_of_short_or_odd s.cfg hlen
  exact ⟨why, exec_transmit_refused hs hy hc⟩

end Sys2Proof.Machine
end

section
/-! Recovery entry (60_exceptions.md R216; 43_transmit.md R182): the failures of the protected section's checks, and that no
step from another position enters recovery. -/

namespace Sys2Proof.Machine

variable {s t : State}

/-! ### the checks -/

/-- The handshake of the last chunk, with WSUM not CLEN, enters recovery (43_transmit.md R177). -/
theorem chunkHandshakeDone_mismatch (bs : List Byte) (hs : s.seq = .txRC) (hlast : s.clen ≤ s.cidx + 32)
    (hsum : s.wsum ≠ s.clen) :
    chunkHandshakeDone bs s = .next { s with
      hs := byteAt bs 0, hsv := true, cidx := s.cidx + 32, pend := some (.writeCountMismatch s.wsum s.clen)
      seq := .txRecRst .p1 } := by
  have hmore : ¬ s.cidx + 32 < s.clen := by omega
  rw [chunkHandshakeDone_eq bs hs, if_neg hmore, if_neg hsum, if_neg (not_or.mpr ⟨hmore, hsum⟩)]

/-- Under asciihex2 a byte that is no hex digit leaves the count without a value (30_encoding.md R92). -/
theorem decodeCount_of_noHexDigit {r1 r2 : Byte} (h : noHexDigit r1 ∨ noHexDigit r2) :
    decodeCount .asciihex2 r1 r2 = none := by
  rcases h with h | h
  · simp [decodeCount, hexval_of_noHexDigit h]
  · cases hr1 : hexval r1 <;> simp [decodeCount, hr1, hexval_of_noHexDigit h]

/-- A report's head whose count does not decode assigns nothing and enters recovery (43_transmit.md R178). -/
theorem reportReadDone_fail {r : List Byte} (hs : s.seq = .txR3)
    (hn : decodeCount s.cfg.countDecode (byteAt r 1) (byteAt r 2) = none) :
    reportReadDone r s = .next { s with pend := some (.reportParseFault r), seq := .txRecRst .p1 } := by
  simp only [reportReadDone, hn]
  exact congrArg _ (raise_guarded _ _ (by rw [hs]; rfl))

/-- The step at TX.R3 with the report's head at the head of the stream is the completion of that read. -/
theorem step_reportHead {r : List Byte} {rest : List InEvent} (hd : s.noResetDue) (hs : s.seq = .txR3)
    (hl : r.length = 3) (he : s.inEvents = delivers r ++ rest) :
    step s = reportReadDone r ({ s.tick with inEvents := rest }.log (.read 3 r)) := by
  rw [step_read hd (k := 3) (by rw [hs]; rfl) hl he]
  simp [readDone, State.tick, hs]

/-! ### no other way in -/

/-- No position is followed by recovery where its micro-operation completes (R216; the tables of 43_transmit.md R171). -/
theorem Pos.next_ne_recovery : ∀ p : Pos, p.next ≠ .txRecRst .p1 := Pos.of_all (by decide)

/-- Taking a failure leads to recovery from the protected section only (R213 to R219). -/
theorem raise_enters_recovery {e : Exn} (h : (raise e s).seq = .txRecRst .p1) : s.seq.region = .guarded := by
  cases hr : s.seq.region with
  | guarded => rfl
  | recovery => rw [raise_recovery _ _ hr] at h; cases h
  | plain => rw [raise_plain _ _ hr] at h; cases h

/-- The completion of a read enters recovery at TX.RC, TX.R3 and TX.R1 only (43_transmit.md R177 to R179). -/
theorem ReadMoves.enters_recovery {bs : List Byte} (h : ReadMoves bs s t) (ht : t.seq = .txRecRst .p1) :
    s.seq.region = .guarded := by
  cases h with
  | handshake hs | reportFails hs | flagFails hs => rw [hs]; rfl
  | received => dsimp only at ht; split at ht <;> cases ht
  | dropped q hx =>
    obtain ⟨-, hnext⟩ := sampleReadSites_micro_next _ hx
    exact absurd (hnext.trans ht) (Pos.next_ne_recovery _)
  | versionFails | versionAnswer | versionGoesOn | setup | report | flagPasses => cases ht

/-- A move of the sequencer that does not start at recovery's first position leads there from the protected section only:
a failure is taken there, or the completion of a read finds one. -/
theorem Moves.enters_recovery (hne : s.seq ≠ .txRecRst .p1) (h : Moves s t) (ht : t.seq = .txRecRst .p1) :
    s.seq.region = .guarded := by
  cases h with
  | waits => exact absurd ht hne
  | begins _ _ first _ _ hf =>
    dsimp only at ht
    subst ht
    simp at hf
  | outFault | readFault =>
    have hguarded := raise_enters_recovery ht
    exact hguarded
  | command | pause => exact absurd ht (Pos.next_ne_recovery _)
  | read k bs rest hm _ _ _ hdone =>
    exact (readDone_cases (s := { s with inEvents := rest }.log (.read k bs)) hm hdone).enters_recovery ht
  | illegal | notReady | construct | receive | invalid | transmit | chunk | flush | endsPlain | constructs | receives
  | dataPhase | transmits | recovers => cases ht

/-- The sequencer does not stay at recovery's first position: its pause completes (20_memory.md R59). -/
theorem stepSequencer_leaves_recoveryStart (hs : s.seq = .txRecRst .p1) (h : stepSequencer s = .next t) :
    t.seq = .txRecRst .w := by
  have hnext : s.seq.next = .txRecRst .w := by rw [hs]; rfl
  have hmicro : s.seq.next.micro = .command .cmdReset := by rw [hnext]; rfl
  rw [stepSequencer_pause (by rw [hs]; rfl), pauseDone_goesOn (by simp [hmicro]) (by simp [hmicro])] at h
  cases h
  exact hnext

/-- A step enters recovery from the protected section only (R182, R216). -/
theorem step_enters_recovery (h : step s = .next t) (ht : t.seq = .txRecRst .p1) : s.seq.region = .guarded := by
  cases hdue : s.resetDue with
  | true =>
    rw [step_due hdue] at h
    cases h
    cases ht
  | false =>
    rw [step_undue hdue] at h
    by_cases hs : s.seq = .txRecRst .p1
    · have hleft := stepSequencer_leaves_recoveryStart (s := s.tick) hs h
      cases hleft.symm.trans ht
    · exact (stepSequencer_cases h).enters_recovery (s := s.tick) hs ht

/-- Settles O26: a fault by `step_fault_guarded`, the three checks by the completions of their reads, and the other way round
by `step_enters_recovery`. -/
theorem protectedFailuresEnterRecovery : Obligations.ProtectedFailuresEnterRecovery := by
  refine ⟨fun s u x hd hf hg => ?_, fun s h rest hd hs he hlast hsum => ?_, fun s f rest hd hs he hlower hupper => ?_,
    fun s r0 r1 r2 rest hd hs he hcfg hdigit => ?_, fun s t h ht => ?_⟩
  · exact ⟨u.inEvents, fun _ => rfl, step_fault_guarded hd ((mem_guardedPositions _).mp hg) hf⟩
  · exact ⟨_, _, (step_chunkHandshake hd hs he).trans (chunkHandshakeDone_mismatch [h] hs hlast hsum)⟩
  · obtain ⟨hflag, -⟩ := completionFlagDecidesSuccess
    obtain ⟨-, hfails⟩ := hflag s f rest hd hs he
    exact hfails hlower hupper
  · have hnone : decodeCount s.cfg.countDecode r1 r2 = none := hcfg ▸ decodeCount_of_noHexDigit hdigit
    exact ⟨_, (step_reportHead hd hs rfl he).trans (reportReadDone_fail hs hnone)⟩
  · exact (mem_guardedPositions _).mpr (step_enters_recovery h ht)

end Sys2Proof.Machine
end

section
/-! Recovery's run (60_exceptions.md R217; 43_transmit.md R181): RESET, then SAMPLE, then the saved failure as the answer. -/

namespace Sys2Proof.Machine

variable {s : State}

/-- The reset sequence that opens recovery. -/
theorem resetInline_recovery : ResetInline .txRecRst (.txRecSmp (.rst .p1)) :=
  ⟨fun _ => rfl, fun _ => rfl, fun _ _ => rfl⟩

/-- The sampling entry that closes recovery. -/
theorem sampleInline_recovery : SampleInline .txRecSmp .rest := ⟨fun _ => rfl, fun _ => rfl, fun _ _ => rfl, by decide⟩

/-- The last pause of recovery: MODE <- Sampling, the answer is Fail(PEND), PEND <- empty, SEQ <- REST (R217). -/
theorem step_recoveryDone {e : Exn} (hd : s.noResetDue) (hs : s.seq = .txRecSmp .p2) (hp : s.pend = some e) :
    step s = .next { s with
      mode := .sampling, pend := none, seq := .rest, answers := s.answers ++ [.fail e]
      trace := s.trace ++ [.pause], rstIn := countDown s.rstIn } := by
  rw [step_pause hd (by rw [hs]; rfl)]
  simp [pauseDone, returnFromRecovery, State.assignMode, State.finish, State.log, State.tick, hs, hp, Pos.sets, Smp.sets]

/-- Recovery from its first position, with a channel that answers: the failure in PEND is delivered, and no other register
than MODE, PEND and SEQ has changed (R217). -/
theorem run_recovery {e : Exn} {a b c : Nat} {q : List Byte} {outs : List OutAnswer} {ins : List InEvent} (hd : s.quiet)
    (hs : s.seq = .txRecRst .p1) (hp : s.pend = some e) (ha : s.outAns = .done a :: .done b :: .done c :: outs)
    (hq : q.length = 3) (he : s.inEvents = delivers q ++ ins) :
    run 10 s = .next { s with
      mode := .sampling, pend := none, seq := .rest, answers := s.answers ++ [.fail e], outAns := outs, inEvents := ins
      trace := s.trace ++ resetTrace a ++ sampleTrace b c q } := by
  calc run 10 s = run 7 { s with
          mode := .idle, seq := .txRecSmp (.rst .p1), outAns := .done b :: .done c :: outs
          trace := s.trace ++ resetTrace a } :=
        run_add (a := 3) (b := 7) (run_resetInline resetInline_recovery (by decide) (by decide) hd hs ha)
    _ = run 1 { s with
          mode := .idle, seq := .txRecSmp .p2, outAns := outs, inEvents := ins
          trace := s.trace ++ resetTrace a ++ resetTrace b ++ [.write [0x53] c, .pause, .read 3 q] } :=
        run_add (a := 6) (b := 1) (run_sampleInline sampleInline_recovery hd rfl rfl hq he)
    _ = run 0 { s with
          mode := .sampling, pend := none, seq := .rest, answers := s.answers ++ [.fail e], outAns := outs
          inEvents := ins
          trace := s.trace ++ resetTrace a ++ resetTrace b ++ [.write [0x53] c, .pause, .read 3 q] ++ [.pause]
          rstIn := countDown s.rstIn } :=
        run_succ (step_recoveryDone (by simp [hd]) rfl hp)
    _ = _ := by simp [run, sampleTrace, hd, countDown]

/-- Settles O28: the run by `run_recovery`, which says what the transient registers hold too. -/
theorem recoveryDeliversTheOriginalFailure : Obligations.RecoveryDeliversTheOriginalFailure :=
  fun _ _ _ _ _ _ _ _ hd hs hp ha hq he => ⟨_, run_recovery hd hs hp ha hq he, rfl⟩

end Sys2Proof.Machine
end

section
/-! The decoder and the encoder (30_encoding.md sections 1, 3 and 8): a round trip in both directions. -/

namespace Sys2Proof

/-- A chunk is an instruction of the table with 1 to 32 bytes (R85). -/
theorem Instr.wf_data_iff (bs : List Byte) : (Instr.data bs).wf = true ↔ bs ≠ [] ∧ bs.length ≤ Config.chunkMax := by
  simp [Instr.wf, Instr.chunkNonempty, Instr.chunkFits, Nat.one_le_iff_ne_zero]

/-- Every accepted chunk is DATA, and the accepted chunks are the well-formed ones. -/
theorem decodeChunk_ok_iff (bs : List Byte) (i : Instr) :
    decodeChunk bs = .ok i ↔ i = .data bs ∧ (Instr.data bs).wf = true := by
  rw [Instr.wf_data_iff]
  by_cases hempty : bs = []
  · simp [decodeChunk, hempty]
  · by_cases hfits : bs.length ≤ Config.chunkMax <;> simp [decodeChunk, hempty, hfits, eq_comm]

/-- Settles O6: the fifteen rows with fixed bits are read back by evaluation, DATA by its length. -/
theorem decodeOfEncodeIsTheInstruction : Obligations.DecodeOfEncodeIsTheInstruction := by
  intro i hwf
  cases i with
  | data bs => exact (decodeChunk_ok_iff bs _).mpr ⟨rfl, hwf⟩
  | transmit code => rfl
  | construct | fwrev | reset | sample | irmode | receive | illegal => rfl
  | cmdReset | cmdVersion | cmdSample | cmdIr | cmdTxHandshake | cmdTxNotify | cmdTxStart => rfl

/-- The ops other than TRANSMIT's (R80, R94). -/
theorem Request.op_cases {op : BitVec 3} (h : op ≠ 6) :
    op = 0 ∨ op = 1 ∨ op = 2 ∨ op = 3 ∨ op = 4 ∨ op = 5 ∨ op = 7 := by
  revert op; decide

/-- A request's instruction is well formed and encodes to the request, but for an operand that TRANSMIT does not own
(R80; log 13). -/
theorem encode_decodeRequest (r : Request) :
    (decodeRequest r).wf = true ∧
      (encode (decodeRequest r) = .request r ∨
        r.op ≠ 6 ∧ encode (decodeRequest r) = .request { op := r.op, operand := [] }) := by
  obtain ⟨op, code⟩ := r
  by_cases htransmit : op = 6
  · subst htransmit
    exact ⟨rfl, .inl rfl⟩
  · rcases Request.op_cases htransmit with rfl | rfl | rfl | rfl | rfl | rfl | rfl <;>
      exact ⟨rfl, .inr ⟨htransmit, rfl⟩⟩

/-- Every accepted command string is one of the seven (R85). -/
theorem decodeCommand_ok {bs : List Byte} {i : Instr} (h : decodeCommand bs = .ok i) :
    i.wf = true ∧ encode i = .command bs := by
  unfold decodeCommand at h
  split_ifs at h with h1 h2 h3 h4 h5 h6 h7 <;> cases h
  all_goals subst bs; exact ⟨rfl, rfl⟩

/-- Settles O7: the request by `encode_decodeRequest`, the command and the chunk by what the decoder accepts of each. -/
theorem acceptedWordsAreEncodings : Obligations.AcceptedWordsAreEncodings := by
  intro w i h
  cases w with
  | request r =>
    cases h
    obtain ⟨hwf, henc | ⟨hop, henc⟩⟩ := encode_decodeRequest r
    · exact ⟨hwf, .inl henc⟩
    · exact ⟨hwf, .inr ⟨r.op, r.operand, rfl, hop, henc⟩⟩
  | command bs =>
    obtain ⟨hwf, henc⟩ := decodeCommand_ok h
    exact ⟨hwf, .inl henc⟩
  | chunk bs =>
    obtain ⟨rfl, hwf⟩ := (decodeChunk_ok_iff bs i).mp h
    exact ⟨hwf, .inl rfl⟩

/-- Settles O5: sixteen words, evaluated. -/
theorem tableWordsDecodeToTheirRows : Obligations.TableWordsDecodeToTheirRows := by
  unfold Obligations.TableWordsDecodeToTheirRows
  decide

end Sys2Proof

namespace Sys2Proof.Machine

variable {s : State}

/-- What is fetched at a position without a write is nothing. -/
theorem fetch_none_of_micro (h : s.seq.micro = .pause ∨ s.seq.micro = .flush ∨ s.seq.micro = .read 1 ∨
    s.seq.micro = .read 3 ∨ s.seq.micro = .read 4) : fetch s = none := by
  unfold fetch
  rcases h with h | h | h | h | h <;> rw [h]

/-- Settles O8: the micro-operation of the position says what is fetched. -/
theorem fetchFollowsThePosition : Obligations.FetchFollowsThePosition := by
  refine fun s => ⟨fun hs => ?_, fun c q bs hsite hbs => ?_, fetch_slice, fun hrest hchunk hsites => ?_⟩
  · simp [fetch, hs, Pos.micro]
  · obtain ⟨henc, -⟩ := commandStrings_bytes _ hbs
    simp only [fetch, commandSites_micro _ _ hsite rfl, henc]
  · refine fetch_none_of_micro (not_commandSites_micro _ (fun x hx hp => ?_) hrest hchunk)
    exact hsites x.1 x.2.2 (by rw [← hp]; exact hx)

/-- Settles O9: with no hardware reset due the step is the sequencer's, which runs what is fetched. -/
theorem stepRunsTheDecodedInstruction : Obligations.StepRunsTheDecodedInstruction := by
  intro s w i hd hf hdec
  have hf' : fetch s.tick = some w := hf
  simp only [step_of_noResetDue hd, stepSequencer, hf', hdec]
  rfl

end Sys2Proof.Machine
end

section
/-! The invariant is kept by every step (10_state.md section 8): by each move of `step_cases`, in the order of what it leads
to: REST, a position in line, or a position of TRANSMIT or RECEIVE with a clause of its own. -/

namespace Sys2Proof.Machine

variable {s t u : State}

/-! ### the clauses that no position asks for -/

/-- What outlives an operation: the clauses of the invariant in which neither SEQ nor PEND occurs. -/
structure State.Lasting (s : State) : Prop where
  memory : Memory.wf s
  unready : s.ready = false → s.hsv = false ∧ s.bcv = false ∧ s.cfv = false
  reported : (s.cfv = true → s.bcv = true) ∧ (s.bcv = true → s.hsv = true)
  capacity : ∀ m, s.cfg.rbufMax = some m → s.rbuf.length ≤ m
  version : s.vbuf.length = 4
  count : s.cfg.countDecode = .asciihex2 → s.bcv = true → s.bc.toNat ≤ 255

/-- Outside recovery PEND is empty (R31). -/
theorem State.Inv.pend_none (hi : s.Inv) (h : s.seq.region ≠ .recovery) : s.pend = none := by
  simpa [h] using hi.pending

/-- The ports are no part of the invariant. -/
theorem State.Inv.ports (hi : s.Inv) (hu : u = { s with
    opIn := u.opIn, answers := u.answers, outAns := u.outAns, inEvents := u.inEvents, trace := u.trace
    rstIn := u.rstIn }) : u.Inv := by
  rw [hu]
  exact ⟨hi.memory, hi.pending, hi.ready, hi.unready, hi.reported, hi.code, hi.chunking, hi.counted, hi.handshaken,
    hi.counts, hi.success, hi.fresh, hi.reading, hi.received, hi.capacity, hi.version, hi.count, hi.mode⟩

/-! ### to REST -/

/-- At REST the invariant asks for what outlives an operation. -/
theorem State.Lasting.inv_of_rest (hl : t.Lasting) (hs : t.seq = .rest) (hp : t.pend = none) : t.Inv :=
  Machine.inv_of_rest hs hl.memory hp hl.unready hl.reported hl.capacity hl.version hl.count

/-- An operation that comes to REST with what it may have changed on the way: MODE, READY (only raised) and VBUF. -/
theorem State.Inv.toRest (hi : s.Inv) (ht : t = { s with
      mode := t.mode, ready := t.ready, vbuf := t.vbuf, pend := t.pend, seq := t.seq, opIn := t.opIn
      answers := t.answers, outAns := t.outAns, inEvents := t.inEvents, trace := t.trace })
    (hs : t.seq = .rest) (hp : t.pend = none) (hy : t.ready = false → s.ready = false) (hv : t.vbuf.length = 4) :
    t.Inv := by
  refine State.Lasting.inv_of_rest ?_ hs hp
  rw [ht]
  exact ⟨hi.memory, fun h => hi.unready (hy h), hi.reported, hi.capacity, hv, hi.count⟩

/-! ### in line -/

/-- The invariant asks for no more at `q` than at `p`, but for READY, MODE and an empty RBUF. -/
def Pos.asksNoMore (p q : Pos) : Bool :=
  decide (q.region = p.region) && decide (q ∉ [Pos.txWC, .txRC, .txR1, .rcvP2]) &&
    (decide (q ∉ [Pos.txP3, .txR3]) || decide (p ∈ [Pos.txP3, .txR3])) &&
    (!q.afterHandshake || p.afterHandshake) &&
    (decide (q ∉ Smp.all.map Pos.txSmp) || decide (p ∈ Smp.all.map Pos.txSmp))

/-- SEQ moves to a position that asks for no more. -/
theorem State.Inv.moveTo {q : Pos} {m : Mode} (hi : s.Inv) (hq : s.seq.asksNoMore q = true)
    (hready : s.ready = !q.inConstruct) (hfresh : q.beforeReceiveLoop = true ∨ q = .rcvR → s.rbuf = [])
    (hmode : ∀ m', q.held = some m' → m = m') : { s with mode := m, seq := q }.Inv := by
  simp only [Pos.asksNoMore, Bool.and_eq_true, Bool.or_eq_true, decide_eq_true_eq, Bool.not_eq_true', List.mem_cons,
    List.not_mem_nil, or_false, not_or] at hq
  obtain ⟨⟨⟨⟨hregion, hWC, hRC, hR1, hP2⟩, hcounted⟩, hhand⟩, hsmp⟩ := hq
  exact
    { memory := hi.memory, unready := hi.unready, reported := hi.reported, capacity := hi.capacity
      version := hi.version, count := hi.count, mode := hmode
      pending := hregion ▸ hi.pending
      ready := fun _ => hready
      code := fun h => hi.code (hregion ▸ h)
      chunking := fun h => (h.elim hWC hRC).elim
      counted := fun h => by
        rcases hcounted with hno | hyes
        · exact (h.elim hno.1 (·.elim hno.2 hR1)).elim
        · exact hi.counted (hyes.imp_right .inl)
      handshaken := fun h => hi.handshaken (hhand.resolve_left (by simp [h]))
      counts := fun h => (hR1 h).elim
      success := fun m' (h : q = .txSmp m') => by
        have hmem : q ∈ Smp.all.map Pos.txSmp := h ▸ List.mem_map_of_mem (Smp.mem_all m')
        obtain ⟨m'', -, h'⟩ := List.mem_map.mp (hsmp.resolve_left (not_not_intro hmem))
        exact hi.success m'' h'.symm
      fresh := fun h => hfresh (.inl h)
      reading := fun h => by
        have hnil := hfresh (.inr h)
        exact ⟨by simp [hnil], fun hne => absurd hnil hne⟩
      received := fun h => (hP2 h).elim }

/-- The micro-operation's completion only moves SEQ on, with the listed MODE assignment (10_state.md R27 a). -/
def Pos.goesOn (p : Pos) : Bool :=
  match p.micro with
  | .command _ | .flush => true
  | .pause => decide (p.next ≠ .rest) && decide (p ≠ .txP2)
  | .read _ => decide ((p, p.next) ∈ sampleReadSites)
  | .wait | .chunk => false

/-- The next position of one that goes on asks for no more, and belongs to the same operation. -/
theorem Pos.next_asksNoMore : ∀ p : Pos, p.goesOn = true → p ≠ .rest ∧ p.asksNoMore p.next = true ∧
    p.next.inConstruct = p.inConstruct ∧
    (p.next.beforeReceiveLoop = true ∨ p.next = .rcvR → p.beforeReceiveLoop = true) := Pos.of_all (by decide)

/-- Only IRM.P's assignment depends on the parameters (41_mode_transitions.md R132). -/
theorem Pos.sets_eq_default {p : Pos} (h : p ≠ .irmP) (cfg : Config) : p.sets cfg = p.sets Config.default := by
  cases p with
  | irmP => exact absurd rfl h
  | _ => rfl

/-- The MODE held at the next position is the one assigned on the way, or the one held before (R133). -/
theorem Pos.next_held {p : Pos} (h : p.goesOn = true) (cfg : Config) :
    p.next.held = none ∨ p.sets cfg = p.next.held ∨ p.sets cfg = none ∧ p.held = p.next.held := by
  have hall : ∀ p : Pos, p.goesOn = true → p ≠ .irmP ∧ (p.next.held = none ∨ p.sets Config.default = p.next.held ∨
      p.sets Config.default = none ∧ p.held = p.next.held) := Pos.of_all (by decide)
  obtain ⟨hne, hheld⟩ := hall p h
  rwa [Pos.sets_eq_default hne]

/-- A position that only goes on keeps the invariant. -/
theorem State.Inv.advance (hi : s.Inv) (h : s.seq.goesOn = true) : s.advance.Inv := by
  obtain ⟨hbusy, hasks, hop, hfresh⟩ := s.seq.next_asksNoMore h
  refine hi.moveTo (q := s.seq.next) (m := (s.seq.sets s.cfg).getD s.mode) hasks (hop ▸ hi.ready hbusy)
    (fun hr => hi.fresh (hfresh hr)) fun m hm => ?_
  rcases Pos.next_held h s.cfg with hnone | hset | ⟨hset, hheld⟩
  · simp [hnone] at hm
  · rw [hset, hm]; rfl
  · rw [hset]; exact hi.mode m (hheld.trans hm)

/-! ### in the protected section -/

/-- In the protected section the invariant asks for READY, the code's shape and what the data phase has done. -/
theorem State.Lasting.inv_of_guarded (hl : t.Lasting) (hg : t.seq.region = .guarded) (hp : t.pend = none)
    (hy : t.ready = true)
    (hcode : 2 ≤ t.cbuf.length ∧ t.cbuf.length % 2 = 0 ∧ endsInSentinel t.cbuf = true ∧ tooLong t.cfg t.cbuf = false)
    (hchunk : t.seq = .txWC ∨ t.seq = .txRC → t.cidx < t.clen ∧ t.cidx % 32 = 0)
    (hsum : t.seq = .txP3 ∨ t.seq = .txR3 ∨ t.seq = .txR1 → t.wsum = t.clen)
    (hhand : t.seq.afterHandshake = true → t.hsv = true) (hcount : t.seq = .txR1 → t.bcv = true)
    (hmode : ∀ m, t.seq.held = some m → t.mode = m) : t.Inv := by
  have hother : ∀ p : Pos, p.region = .guarded → p.inConstruct = false ∧ p ∉ Smp.all.map Pos.txSmp ∧
      p.beforeReceiveLoop = false ∧ p ≠ .rcvR ∧ p ≠ .rcvP2 := Pos.of_all (by decide)
  obtain ⟨hcons, hsmp, hbefore, hloop, hafter⟩ := hother _ hg
  exact
    { memory := hl.memory, unready := hl.unready, reported := hl.reported, capacity := hl.capacity
      version := hl.version, count := hl.count, chunking := hchunk, counted := hsum, handshaken := hhand
      counts := hcount, mode := hmode
      pending := by simp [hp, hg]
      ready := fun _ => by rw [hy, hcons]; rfl
      code := fun _ => hcode
      success := fun m h => absurd (h ▸ List.mem_map_of_mem (Smp.mem_all m)) hsmp
      fresh := fun h => by simp [hbefore] at h
      reading := fun h => absurd h hloop
      received := fun h => absurd h hafter }

/-- An operation in the protected section runs with READY = 1 (R22). -/
theorem State.Inv.ready_of_guarded (hi : s.Inv) (hg : s.seq.region = .guarded) : s.ready = true := by
  have hall : ∀ p : Pos, p.region = .guarded → p ≠ .rest ∧ p.inConstruct = false := Pos.of_all (by decide)
  obtain ⟨hbusy, hcons⟩ := hall _ hg
  rw [hi.ready hbusy, hcons]
  rfl

/-! ### the completion of a read -/

/-- A count that decodes under asciihex2 is two hex digits (R24; 30_encoding.md R92). -/
theorem decodeCount_asciihex2_le {r1 r2 : Byte} {n : Half} (h : decodeCount .asciihex2 r1 r2 = some n) :
    n.toNat ≤ 255 := by
  simp only [decodeCount] at h
  split at h
  · rename_i a b ha hb
    have := hexval_lt ha
    have := hexval_lt hb
    cases h
    simp
    omega
  · cases h

/-- In the read loop and at its exit the invariant asks for what RBUF holds. -/
theorem State.Lasting.inv_of_receiving (hl : t.Lasting) (hs : t.seq = .rcvR ∨ t.seq = .rcvP2) (hp : t.pend = none)
    (hy : t.ready = true) (hm : t.mode = .sampling)
    (hreading : t.seq = .rcvR → (∀ k ≤ t.rbuf.length, ¬ stopsAt t.rbuf k) ∧
      (t.rbuf ≠ [] → t.prev = byteAt t.rbuf (t.rbuf.length - 1)))
    (hreceived : t.seq = .rcvP2 → firstStopsAt t.rbuf t.rbuf.length) : t.Inv := by
  refine ⟨hl.memory, ?_, ?_, hl.unready, hl.reported, ?_, ?_, ?_, ?_, ?_, ?_, ?_, hreading, hreceived, hl.capacity,
    hl.version, hl.count, ?_⟩ <;>
  rcases hs with hs | hs <;>
  simp [hs, hp, hy, hm, Pos.region, Pos.inConstruct, Pos.afterHandshake, Pos.beforeReceiveLoop, Pos.held]

/-- A received byte keeps the invariant: the detector fires exactly where the stream stops (42_receive.md R151). -/
theorem State.Inv.received_byte (hi : s.Inv) (hs : s.seq = .rcvR) (hf : receiveFull s.cfg s.rbuf = false) (b : Byte) :
    { s.appendReceived b with seq := if terminatorFires (s.rcnt + 1) s.prev b then .rcvP2 else .rcvR }.Inv := by
  obtain ⟨-, hlen⟩ := hi.memory
  obtain ⟨hnone, hprev⟩ := hi.reading hs
  have hfire : terminatorFires (s.rcnt + 1) s.prev b = true ↔ stopsAt (s.rbuf ++ [b]) (s.rbuf ++ [b]).length := by
    rw [hlen, List.length_append]; exact terminatorFires_iff_stopsAt b hprev
  have hbefore : ∀ k < (s.rbuf ++ [b]).length, ¬ stopsAt (s.rbuf ++ [b]) k := fun k hk => by
    have hk : k ≤ s.rbuf.length := by simpa [Nat.lt_succ_iff] using hk
    rw [stopsAt_append hk]
    exact hnone k hk
  have hroom : ∀ m, s.cfg.rbufMax = some m → (s.rbuf ++ [b]).length ≤ m := fun m hm => by
    simp only [receiveFull, hm, decide_eq_false_iff_not] at hf
    rw [List.length_append, List.length_singleton]
    omega
  refine State.Lasting.inv_of_receiving
    ⟨appendReceived_keeps_wf s b hi.memory, hi.unready, hi.reported, hroom, hi.version, hi.count⟩ ?_
    (hi.pend_none (by simp [hs, Pos.region])) ((hi.ready (by simp [hs])).trans (by rw [hs]; rfl))
    (hi.mode _ (by rw [hs]; rfl)) (fun hgo => ⟨fun k hk => ?_, fun _ => by simp [byteAt]⟩) fun hstop => ⟨?_, hbefore⟩
  · dsimp only; split <;> simp
  · rcases Nat.lt_or_eq_of_le hk with hlt | rfl
    · exact hbefore k hlt
    · exact fun hstop => by simp [hfire.mpr hstop] at hgo
  · by_contra hno
    simp [mt hfire.mp hno] at hstop

/-- TRANSMIT's writes to the data registers leave what outlives the operation, where a flag comes with a count and a count
with a handshake. -/
theorem State.Inv.lasting_of_dataWrite (hi : s.Inv) (hg : s.seq.region = .guarded) (ht : t = { s with
      mode := t.mode, hs := t.hs, hsv := t.hsv, bc := t.bc, bcv := t.bcv, cf := t.cf, cfv := t.cfv, seq := t.seq
      cidx := t.cidx, wsum := t.wsum, pend := t.pend, outAns := t.outAns, inEvents := t.inEvents, trace := t.trace })
    (hr : (t.cfv = true → t.bcv = true) ∧ (t.bcv = true → t.hsv = true))
    (hc : s.cfg.countDecode = .asciihex2 → t.bcv = true → t.bc.toNat ≤ 255) : t.Lasting := by
  have hy : t.ready = true := by rw [ht]; exact hi.ready_of_guarded hg
  have hm : Memory.wf t := by rw [ht]; exact hi.memory
  have hroom : ∀ m, t.cfg.rbufMax = some m → t.rbuf.length ≤ m := by rw [ht]; exact hi.capacity
  have hv : t.vbuf.length = 4 := by rw [ht]; exact hi.version
  have hcfg : t.cfg = s.cfg := by rw [ht]
  exact ⟨hm, fun h => by simp [hy] at h, hr, hroom, hv, hcfg ▸ hc⟩

/-- Recovery's first position asks for an exception in PEND, and READY. -/
theorem State.Lasting.inv_of_recovery (hl : t.Lasting) (hs : t.seq = .txRecRst .p1) (hp : t.pend.isSome = true)
    (hy : t.ready = true) : t.Inv :=
  Machine.inv_of_recovery hs hl.memory hp hy hl.reported hl.capacity hl.version hl.count

/-- The first position of the closing sampling entry asks for a passing flag and MODE still Transmit (43_transmit.md
R180). -/
theorem State.Lasting.inv_of_successExit (hl : t.Lasting) (hs : t.seq = .txSmp (.rst .p1)) (hp : t.pend = none)
    (hy : t.ready = true) (hm : t.mode = .transmit) (hhand : t.hsv = true) (hflag : t.cfv = true)
    (hc : completionOk t.cf = true) : t.Inv := by
  refine ⟨hl.memory, ?_, ?_, hl.unready, hl.reported, ?_, ?_, ?_, ?_, ?_, ?_, ?_, ?_, ?_, hl.capacity,
    hl.version, hl.count, ?_⟩ <;>
  simp [hs, hp, hy, hm, hhand, hflag, hc, Pos.region, Pos.inConstruct, Pos.afterHandshake, Pos.beforeReceiveLoop,
    Pos.held, Smp.held, Rst.held]

/-- A chunk's handshake keeps the invariant: CIDX stays aligned where another chunk follows, and the report follows a right
count only (43_transmit.md R177). -/
theorem State.Inv.handshake_byte (hi : s.Inv) (hs : s.seq = .txRC) (h : Byte) :
    { s with
      hs := h, hsv := true, cidx := s.cidx + 32
      seq := if s.cidx + 32 < s.clen then .txWC else if s.wsum = s.clen then .txP3 else .txRecRst .p1
      pend := if s.cidx + 32 < s.clen ∨ s.wsum = s.clen then s.pend
        else some (.writeCountMismatch s.wsum s.clen) }.Inv := by
  have hg : s.seq.region = .guarded := by rw [hs]; rfl
  have hready := hi.ready_of_guarded hg
  have hpend := hi.pend_none (by simp [hg])
  have hmode : s.mode = .transmit := hi.mode _ (by rw [hs]; rfl)
  obtain ⟨-, haligned⟩ := hi.chunking (.inr hs)
  obtain ⟨hflag, -⟩ := hi.reported
  by_cases hmore : s.cidx + 32 < s.clen
  · rw [if_pos hmore, if_pos (.inl hmore)]
    refine State.Lasting.inv_of_guarded (hi.lasting_of_dataWrite hg rfl ⟨hflag, fun _ => rfl⟩ hi.count) rfl hpend hready
      (hi.code hg) ?_ ?_ ?_ ?_ ?_ <;> simp [hmore, hmode, haligned, Pos.held]
  by_cases hsum : s.wsum = s.clen
  · rw [if_neg hmore, if_pos hsum, if_pos (.inr hsum)]
    refine State.Lasting.inv_of_guarded (hi.lasting_of_dataWrite hg rfl ⟨hflag, fun _ => rfl⟩ hi.count) rfl hpend hready
      (hi.code hg) ?_ ?_ ?_ ?_ ?_ <;> simp [hsum, hmode, Pos.held]
  · rw [if_neg hmore, if_neg hsum, if_neg (not_or.mpr ⟨hmore, hsum⟩)]
    exact State.Lasting.inv_of_recovery (hi.lasting_of_dataWrite hg rfl ⟨hflag, fun _ => rfl⟩ hi.count) rfl rfl hready

/-- The completion of a read keeps the invariant. A version response has four bytes (30_encoding.md R86). -/
theorem ReadMoves.keeps_inv {bs : List Byte} {k : Nat} (h : ReadMoves bs s t) (hi : s.Inv) (hm : s.seq.micro = .read k)
    (hl : bs.length = k) : t.Inv := by
  have hversion : s.seq = .fwr .r ∨ s.seq = .conFwr .r → bs.length = 4 ∧ s.pend = none := fun hs => by
    refine ⟨?_, hi.pend_none (by rcases hs with hs | hs <;> simp [hs, Pos.region])⟩
    rcases hs with hs | hs <;> (rw [hs] at hm; cases hm; exact hl)
  have hguarded : s.seq = .txRH ∨ s.seq = .txR3 ∨ s.seq = .txR1 → s.seq.region = .guarded := by
    rintro (hs | hs | hs) <;> rw [hs] <;> rfl
  obtain ⟨hflag, hhand⟩ := hi.reported
  cases h with
  | versionFails hs e =>
    obtain ⟨hlen, hp⟩ := hversion hs
    exact hi.toRest rfl rfl hp id hlen
  | versionAnswer hs hw fw =>
    obtain ⟨hlen, hp⟩ := hversion (.inl hs)
    exact hi.toRest rfl rfl hp id hlen
  | versionGoesOn hs =>
    obtain ⟨hlen, -⟩ := hversion (.inr hs)
    have hmode : s.mode = .idle := hi.mode _ (by rw [hs]; rfl)
    have hi' : { s with vbuf := bs }.Inv := { hi with version := hlen }
    exact hi'.moveTo (q := .conSmp (.rst .p1)) (m := s.mode) (by simp [hs]; decide)
      (by rw [hi.ready (by simp [hs]), hs]; rfl) (by simp [Pos.beforeReceiveLoop])
      (by simp [hmode, Pos.held, Smp.held, Rst.held])
  | received hs hf => exact hi.received_byte hs hf _
  | setup hs =>
    have hg := hguarded (.inl hs)
    refine State.Lasting.inv_of_guarded (hi.lasting_of_dataWrite hg rfl ⟨hflag, fun _ => rfl⟩ hi.count) rfl
      (hi.pend_none (by simp [hg])) (hi.ready_of_guarded hg) (hi.code hg) ?_ ?_ ?_ ?_ ?_ <;> simp [Pos.held]
  | handshake hs => exact hi.handshake_byte hs _
  | reportFails hs =>
    have hg := hguarded (.inr (.inl hs))
    exact State.Lasting.inv_of_recovery (hi.lasting_of_dataWrite hg rfl hi.reported hi.count) rfl rfl
      (hi.ready_of_guarded hg)
  | report hs n hn =>
    have hg := hguarded (.inr (.inl hs))
    have hhand : s.hsv = true := hi.handshaken (by rw [hs]; rfl)
    have hmode : s.mode = .transmit := hi.mode _ (by rw [hs]; rfl)
    have hle : s.cfg.countDecode = .asciihex2 → n.toNat ≤ 255 := fun hcfg => decodeCount_asciihex2_le (hcfg ▸ hn)
    refine State.Lasting.inv_of_guarded
      (hi.lasting_of_dataWrite hg rfl ⟨fun _ => rfl, fun _ => hhand⟩ fun hcfg _ => hle hcfg) rfl
      (hi.pend_none (by simp [hg])) (hi.ready_of_guarded hg) (hi.code hg) ?_ (fun _ => hi.counted (.inr (.inl hs)))
      ?_ ?_ ?_ <;> simp [hhand, hmode, Pos.held]
  | flagPasses hs hc =>
    have hg := hguarded (.inr (.inr hs))
    have hcount := hi.counts hs
    exact State.Lasting.inv_of_successExit (hi.lasting_of_dataWrite hg rfl ⟨fun _ => hcount, hhand⟩ hi.count) rfl
      (hi.pend_none (by simp [hg])) (hi.ready_of_guarded hg) (hi.mode _ (by rw [hs]; rfl)) (hhand hcount) rfl hc
  | flagFails hs hc =>
    have hg := hguarded (.inr (.inr hs))
    exact State.Lasting.inv_of_recovery (hi.lasting_of_dataWrite hg rfl ⟨fun _ => hi.counts hs, hhand⟩ hi.count) rfl
      rfl (hi.ready_of_guarded hg)
  | dropped q hx =>
    obtain ⟨hmicro, hnext⟩ := sampleReadSites_micro_next _ hx
    have hgo : s.seq.goesOn = true := by simp [Pos.goesOn, hmicro, hnext, hx]
    have := hi.advance hgo
    rwa [advance_of_sets_none (sampleReadSites_sets hx _), hnext] at this

/-! ### every move -/

/-- The first positions of CONSTRUCT, FWREV, RESET, SAMPLE and IRMODE (30_encoding.md R82 (4)). -/
def plainFirsts : List Pos := [.conF, .fwr (.rst .p1), .rst .p1, .smp (.rst .p1), .irmRst .p1]

/-- They ask for READY only. -/
theorem plainFirsts_asksNoMore : ∀ q ∈ plainFirsts,
    Pos.rest.asksNoMore q = true ∧ q.held = none ∧ q.beforeReceiveLoop = false ∧ q ≠ .rcvR ∧
      q.inConstruct = decide (q = .conF) := by decide

/-- An operation that asks for READY only begins at its first position. -/
theorem State.Inv.begins {q : Pos} (hi : s.Inv) (hs : s.seq = .rest) (hq : q ∈ plainFirsts)
    (hready : s.ready = !decide (q = .conF)) : { s with seq := q }.Inv := by
  obtain ⟨hasks, hheld, hbefore, hloop, hcons⟩ := plainFirsts_asksNoMore q hq
  exact hi.moveTo (m := s.mode) (by rw [hs]; exact hasks) (by rw [hready, hcons]) (by simp [hbefore, hloop])
    (by simp [hheld])

/-- Every move of the sequencer keeps the invariant. -/
theorem Moves.keeps_inv (h : Moves s t) (hi : s.Inv) : t.Inv := by
  have hrest : s.seq = .rest → s.pend = none := fun hs => hi.pend_none (by simp [hs, Pos.region])
  cases h with
  | waits => exact hi
  | illegal _ _ hs | notReady _ _ hs | invalid _ _ _ hs => exact hi.toRest rfl rfl (hrest hs) id hi.version
  | construct r rs hs _ _ =>
    have hl : { s.takeRequest with ready := false, hsv := false, bcv := false, cfv := false }.Lasting :=
      ⟨hi.memory, by simp, by simp, hi.capacity, hi.version, by simp⟩
    exact (hl.inv_of_rest hs (hrest hs)).begins (q := .conF) hs (by decide) rfl
  | begins r rs first hs _ hf hy =>
    have hi' : s.takeRequest.Inv := hi.ports rfl
    have hq : first ∈ plainFirsts ∧ first ≠ .conF := by
      rcases hf with ⟨-, rfl⟩ | ⟨-, rfl⟩ | ⟨-, rfl⟩ | ⟨-, rfl⟩ <;> decide
    obtain ⟨hmem, hne⟩ := hq
    exact hi'.begins hs hmem (by simp [hy, hne])
  | receive r rs hs _ _ hy =>
    have hl : s.takeRequest.clearReceived.Lasting :=
      ⟨clearReceived_keeps_wf _ hi.memory, hi.unready, hi.reported, fun _ _ => Nat.zero_le _, hi.version, hi.count⟩
    exact (hl.inv_of_rest hs (hrest hs)).moveTo (q := .rcvP1) (m := s.mode) (by simp [hs]; decide) (by simp [hy]; rfl)
      (fun _ => rfl) (by simp [Pos.held])
  | transmit r rs hs _ _ hy hc =>
    have hl : { s.takeRequest.loadCode (adjustCode r.operand) with pend := none, seq := .txP1 }.Lasting :=
      ⟨loadCode_keeps_wf s _ hi.memory, hi.unready, hi.reported, hi.capacity, hi.version, hi.count⟩
    refine hl.inv_of_guarded rfl rfl hy (adjustCode_of_checkCode hc) ?_ ?_ ?_ ?_ ?_ <;>
      simp [Pos.afterHandshake, Pos.held]
  | outFault x rest e hb => exact inv_raise hi _ hb rfl
  | readFault k x rest hm =>
    exact inv_raise hi _ (by rintro hs; simp [hs, Pos.micro] at hm) rfl
  | command c n rest hm ho =>
    have hi' : ({ s with outAns := rest }.log (.write c.wireBytes n)).Inv := hi.ports rfl
    exact hi'.advance (by simp [Pos.goesOn, hm])
  | chunk n rest hs hne ho =>
    have hg : s.seq.region = .guarded := by rw [hs]; rfl
    have hmode : s.mode = .transmit := hi.mode _ (by rw [hs]; rfl)
    have hhand : s.hsv = true := hi.handshaken (by rw [hs]; rfl)
    have hchunk := hi.chunking (.inl hs)
    refine State.Lasting.inv_of_guarded (hi.lasting_of_dataWrite hg rfl hi.reported hi.count) rfl
      (hi.pend_none (by simp [hg])) (hi.ready_of_guarded hg) (hi.code hg) (fun _ => hchunk) ?_ ?_ ?_ ?_ <;>
      simp [hmode, hhand, Pos.held]
  | flush n rest hs ho =>
    have hi' : ({ s with outAns := rest }.log .flush).Inv := hi.ports rfl
    have hadvance := hi'.advance (by simp [hs]; decide)
    rw [advance_of_sets_none (by simp [hs, Pos.sets])] at hadvance
    simpa [hs, Pos.next] using hadvance
  | pause hm hn h2 =>
    have hi' : (s.log .pause).Inv := hi.ports rfl
    exact hi'.advance (by simp [Pos.goesOn, hm, hn, h2])
  | endsPlain hs =>
    exact hi.toRest rfl rfl (hi.pend_none (by rcases hs with hs | hs | hs <;> simp [hs, Pos.region])) id hi.version
  | constructs hs =>
    exact hi.toRest rfl rfl (hi.pend_none (by simp [hs, Pos.region])) (fun hy => by cases hy) hi.version
  | receives hs | transmits hs => exact hi.toRest rfl rfl (hi.pend_none (by simp [hs, Pos.region])) id hi.version
  | dataPhase hs =>
    have hg : s.seq.region = .guarded := by rw [hs]; rfl
    have hmode : s.mode = .transmit := hi.mode _ (by rw [hs]; rfl)
    have hhand : s.hsv = true := hi.handshaken (by rw [hs]; rfl)
    obtain ⟨htwo, hcode⟩ := hi.code hg
    obtain ⟨hlen, -⟩ := hi.memory
    have hpos : 0 < s.clen := by omega
    refine State.Lasting.inv_of_guarded (hi.lasting_of_dataWrite hg rfl hi.reported hi.count) rfl
      (hi.pend_none (by simp [hg])) (hi.ready_of_guarded hg) ⟨htwo, hcode⟩ (fun _ => ⟨hpos, rfl⟩) ?_ ?_ ?_ ?_ <;>
      simp [hmode, hhand, Pos.held]
  | recovers e hs hp => exact hi.toRest rfl rfl rfl id hi.version
  | read k bs rest hm hl he t ht =>
    have hi' : ({ s with inEvents := rest }.log (.read k bs)).Inv := hi.ports rfl
    exact (readDone_cases (s := { s with inEvents := rest }.log (.read k bs)) hm ht).keeps_inv hi' hm hl

/-- A due hardware reset leaves the invariant (R37). -/
theorem acceptReset_inv (s : State) : s.acceptReset.Inv := by
  have hl : s.acceptReset.Lasting := ⟨acceptReset_wf s, by simp, by simp, by simp, by simp, by simp⟩
  exact hl.inv_of_rest rfl rfl

/-- Settles O59: a due hardware reset establishes the invariant, and every move keeps it. -/
theorem stepKeepsTheInvariant : Obligations.StepKeepsTheInvariant := by
  intro s t hi h
  rcases step_cases h with ⟨-, rfl⟩ | ⟨-, hmoves⟩
  · exact acceptReset_inv s
  · exact hmoves.keeps_inv (inv_tick hi)

/-- Settles O58: at REST, with the two buffers empty and no valid bit set. -/
theorem invariantHoldsAtReset : Obligations.InvariantHoldsAtReset := by
  have hl : State.reset.Lasting := ⟨reset_wf, by decide, by decide, by decide, rfl, by decide⟩
  exact hl.inv_of_rest rfl rfl

end Sys2Proof.Machine
end

section
/-! No stop in a state of the invariant (10_state.md R27): each operation answers a next state but at the places the
invariant rules out (log 19), and at RCV.R with RBUF full. -/

namespace Sys2Proof.Machine

variable {s t u : State}

/-! ### the transactions and the acceptance stop only where what follows them does -/

theorem chWrite_next {bs : List Byte} {k : Nat → State → Out} (hk : ∀ n u, ∃ t, k n u = .next t) :
    ∃ t, chWrite bs k s = .next t := by
  unfold chWrite
  split
  · exact ⟨_, rfl⟩
  · exact hk _ _
  · exact ⟨_, rfl⟩

theorem chFlush_next {k : State → Out} (hk : ∀ u, ∃ t, k u = .next t) : ∃ t, chFlush k s = .next t := by
  unfold chFlush
  split
  · exact ⟨_, rfl⟩
  · exact hk _
  · exact ⟨_, rfl⟩

/-- A read goes on with a state in which only the channel and the trace have moved. -/
theorem chRead_next {k : Nat} {done : List Byte → State → Out}
    (hk : ∀ bs rest, ∃ t, done bs ({ s with inEvents := rest }.log (.read k bs)) = .next t) :
    ∃ t, chRead k done s = .next t := by
  unfold chRead
  split
  · exact ⟨_, rfl⟩
  · exact hk _ _
  · exact ⟨_, rfl⟩

theorem atRest_next {k : State → Out} (hs : s.seq = .rest) (hk : ∀ u, ∃ t, k u = .next t) :
    ∃ t, atRest k s = .next t := by
  rw [atRest_rest hs]; exact hk _

theorem ifReady_next {k : State → Out} (hk : ∀ u, ∃ t, k u = .next t) : ∃ t, ifReady k s = .next t := by
  unfold ifReady
  split
  · exact hk _
  · exact ⟨_, rfl⟩

/-! ### the rows and the micro-operations -/

/-- TRANSMIT's operand is accepted or refused, and either is an answer (43_transmit.md R170). -/
theorem execTransmit_next (hs : s.seq = .rest) (code : List Byte) : ∃ t, execTransmit code s = .next t := by
  refine atRest_next hs fun u => ifReady_next fun v => ?_
  dsimp only
  split <;> exact ⟨_, rfl⟩

/-- At REST every request is answered or accepted (30_encoding.md R82). -/
theorem exec_request_next (hs : s.seq = .rest) (r : Request) : ∃ t, exec (decodeRequest r) s = .next t := by
  have hbegin : ∀ p, ∃ t, atRest (ifReady (begin p)) s = .next t := fun p =>
    atRest_next hs fun _ => ifReady_next fun _ => ⟨_, rfl⟩
  unfold decodeRequest
  split
  · exact atRest_next hs fun _ => ⟨_, rfl⟩
  · exact hbegin _
  · exact hbegin _
  · exact hbegin _
  · exact hbegin _
  · exact atRest_next hs fun _ => ifReady_next fun _ => ⟨_, rfl⟩
  · exact execTransmit_next hs _
  · exact atRest_next hs fun _ => ⟨_, rfl⟩

/-- A pause completes, where PEND is full at the end of recovery (60_exceptions.md R217). -/
theorem pauseDone_next (hp : s.seq = .txRecSmp .p2 → s.pend.isSome = true) : ∃ t, pauseDone s = .next t := by
  unfold pauseDone
  split
  case h_8 hs =>
    obtain ⟨e, he⟩ := Option.isSome_iff_exists.mp (hp hs)
    simp [returnFromRecovery, he]
  all_goals exact ⟨_, rfl⟩

/-- A read completes, where RBUF is not full (log 17). -/
theorem readDone_next (hf : receiveFull s.cfg s.rbuf = false) (bs : List Byte) : ∃ t, readDone bs s = .next t := by
  unfold readDone
  split
  · simp only [fwrevReadDone]; split <;> exact ⟨_, rfl⟩
  · simp only [constructReadDone]; split
    · exact ⟨_, rfl⟩
    · split <;> exact ⟨_, rfl⟩
  · simp only [receiveReadDone, hf, Bool.false_eq_true, if_false]; split <;> exact ⟨_, rfl⟩
  · exact ⟨_, rfl⟩
  · rename_i hs; exact ⟨_, chunkHandshakeDone_eq bs hs⟩
  · simp only [reportReadDone]; split <;> exact ⟨_, rfl⟩
  · simp only [flagReadDone]; split <;> exact ⟨_, rfl⟩
  · exact ⟨_, rfl⟩

/-- The sequencer answers a next state, where the invariant holds and RBUF has no bound. -/
theorem stepSequencer_next (hi : s.Inv) (hb : s.cfg.rbufMax = none) : ∃ t, stepSequencer s = .next t := by
  cases hm : s.seq.micro with
  | wait =>
    have hs := Pos.micro_wait _ hm
    cases ho : s.opIn with
    | nil => exact ⟨_, stepSequencer_waits hs ho⟩
    | cons r rs => rw [stepSequencer_request hs ho]; exact exec_request_next hs r
  | pause =>
    rw [stepSequencer_pause hm]
    refine pauseDone_next fun hs => ?_
    have hs : s.seq = .txRecSmp .p2 := hs
    simpa [hs, Pos.region] using hi.pending
  | flush => rw [stepSequencer_flush hm]; exact chFlush_next fun _ => ⟨_, rfl⟩
  | command c =>
    rw [stepSequencer_command hm, emitCommand_here hm]
    exact chWrite_next fun _ _ => ⟨_, rfl⟩
  | chunk =>
    have hs := Pos.micro_chunk _ hm
    have hne : s.chunk ≠ [] := by
      rw [← State.slice_eq_chunk]; exact List.length_pos_iff.mp (hi.slice_length_pos hs)
    rw [stepSequencer_chunk hs hne, execData_here hs hne]
    exact chWrite_next fun _ _ => ⟨_, rfl⟩
  | read k =>
    rw [stepSequencer_read hm]
    exact chRead_next fun bs rest => readDone_next (by simp [receiveFull, hb]) bs

/-- Settles O60: a due hardware reset is a next state, and so is the sequencer's step. -/
theorem sequencerNeverStops : Obligations.SequencerNeverStops := by
  intro s hi hb
  cases hdue : s.resetDue with
  | true => exact ⟨_, step_due hdue⟩
  | false => rw [step_undue hdue]; exact stepSequencer_next (inv_tick hi) hb

end Sys2Proof.Machine
end

section
/-! Hardware reset and the ST port (10_state.md sections 6 and 9; 70_reset_and_hazards.md sections 1 and 3). -/

namespace Sys2Proof.Machine

/-- Settles O1: the record's fields, and the view of them. -/
theorem resetLeavesTheStatedValues : Obligations.ResetLeavesTheStatedValues :=
  ⟨rfl, rfl, rfl, rfl, rfl, rfl, rfl, rfl⟩

/-- Settles O2: an assertion at the head of the schedule is due, and takes the place of the step. -/
theorem hardwareResetAbandonsTheOperation : Obligations.HardwareResetAbandonsTheOperation := by
  intro s rs hr
  have hdue : s.resetDue = true := by simp [State.resetDue, hr]
  rw [step_due hdue]
  simp only [State.acceptReset, State.hardwareReset, hr, List.tail_cons]

/-- Settles O3: the view reads a data register through its valid bit. -/
theorem statusPortHidesInvalidRegisters : Obligations.StatusPortHidesInvalidRegisters := by
  refine fun s => ⟨rfl, rfl, rfl, ?_, ?_, ?_, ?_, ?_, ?_⟩ <;> intro h <;> simp [State.status, h]

end Sys2Proof.Machine
end

section
/-! Acceptance of the host operations at REST (30_encoding.md R82, R83): the checks in their order, and what each operation
loads. -/

namespace Sys2Proof.Machine

variable {s : State}

/-- Settles O10: the meaning of each host operation asks for REST first. -/
theorem requestWhileBusyIsRefused : Obligations.RequestWhileBusyIsRefused := by
  intro i s hi hs
  cases i with
  | construct => rw [exec, execConstruct, atRest_busy hs]
  | illegal => rw [exec, execIllegal, atRest_busy hs]
  | fwrev | reset | sample | irmode | receive | transmit => exact atRest_busy hs
  | cmdReset | cmdVersion | cmdSample | cmdIr | cmdTxHandshake | cmdTxNotify | cmdTxStart | data => exact absurd rfl hi

/-- A request refused at REST is taken and answered, and nothing else changes (R82). -/
theorem raise_takeRequest (hs : s.seq = .rest) (e : Exn) :
    raise e s.takeRequest = { s with opIn := s.opIn.tail, answers := s.answers ++ [.fail e] } :=
  raise_at_rest (s := s.takeRequest) hs e

/-- Settles O11: op = 7 fails the first check (R82 (1)). -/
theorem illegalOperationIsAnsweredWithoutEffect : Obligations.IllegalOperationIsAnsweredWithoutEffect := by
  intro s hs
  rw [exec, execIllegal, atRest_rest hs, raise_takeRequest hs]

/-- With READY = 0 an operation that needs it is refused before any other check (R82 (2)). -/
theorem atRest_ifReady_unready {accept : State → Out} (hs : s.seq = .rest) (hy : s.ready = false) :
    atRest (ifReady accept) s = .next { s with opIn := s.opIn.tail, answers := s.answers ++ [.fail .notReady] } := by
  rw [atRest_rest hs, ifReady_unready (s := s.takeRequest) hy, raise_takeRequest hs]

/-- Settles O12: each of the six operations checks READY first. -/
theorem unreadyBlockRefusesEveryOperation : Obligations.UnreadyBlockRefusesEveryOperation := by
  intro s code hs hy i hi
  simp only [List.mem_cons, List.not_mem_nil, or_false] at hi
  rcases hi with rfl | rfl | rfl | rfl | rfl | rfl <;> exact atRest_ifReady_unready hs hy

/-- With READY = 1 an operation goes on to its own acceptance (R82). -/
theorem atRest_ifReady_ready {accept : State → Out} (hs : s.seq = .rest) (hy : s.ready = true) :
    atRest (ifReady accept) s = accept s.takeRequest := by
  rw [atRest_rest hs, ifReady_ready (s := s.takeRequest) hy]

/-- Settles O13: CONSTRUCT checks nothing at REST. -/
theorem constructIsAccepted : Obligations.ConstructIsAccepted := by
  intro s hs
  rw [exec, execConstruct, atRest_rest hs]
  rfl

/-- Settles O14: past the READY check the four operations begin. -/
theorem modeOperationsAreAccepted : Obligations.ModeOperationsAreAccepted := fun _ hs hy =>
  ⟨atRest_ifReady_ready hs hy, atRest_ifReady_ready hs hy, atRest_ifReady_ready hs hy, atRest_ifReady_ready hs hy⟩

/-- Settles O15: past the READY check RECEIVE clears its buffer. -/
theorem receiveIsAccepted : Obligations.ReceiveIsAccepted := fun _ hs hy => atRest_ifReady_ready hs hy

/-! ### TRANSMIT's operand -/

/-- The two bytes of the sentinel adjustment (43_transmit.md R170). -/
theorem adjustCode_eq_iff (code cb : List Byte) : adjustCode code = cb ↔
    (∃ pre, code = pre ++ [0xFF, 0xFF]) ∧ cb = code ∨
      (¬ ∃ pre, code = pre ++ [0xFF, 0xFF]) ∧ cb = code ++ [0xFF, 0xFF] := by
  rw [← endsInSentinel_iff]
  by_cases h : endsInSentinel code = true <;> simp [adjustCode, h, Config.sentinelByte, eq_comm]

/-- The adjusted code exceeds MAX_CODE_LEN, if that is set (R170; log 21). -/
theorem tooLong_iff (cfg : Config) (cb : List Byte) :
    tooLong cfg cb = true ↔ ∃ m, cfg.maxCodeLen = some m ∧ m < cb.length := by
  unfold tooLong
  split <;> rename_i h <;> simp [h]

/-- TRANSMIT with an operand that passes the check loads the adjusted code (R170). -/
theorem exec_transmit_accepted {code : List Byte} (hs : s.seq = .rest) (hy : s.ready = true)
    (hc : checkCode s.cfg code = none) :
    exec (.transmit code) s = .next { s with
      opIn := s.opIn.tail, cbuf := adjustCode code, clen := (adjustCode code).length, pend := none, seq := .txP1 } := by
  have hc' : checkCode s.takeRequest.cfg code = none := hc
  rw [exec, execTransmit, atRest_ifReady_ready hs hy, hc']
  rfl

/-- Settles O16: such an operand passes the three tests of the check. -/
theorem transmitLoadsTheAdjustedCode : Obligations.TransmitLoadsTheAdjustedCode := by
  intro s code cb hs hy hlen heven hcb hmax
  obtain rfl := (adjustCode_eq_iff code cb).mpr hcb
  have hfits : ¬ tooLong s.cfg (adjustCode code) = true := by
    rw [tooLong_iff]
    rintro ⟨m, hm, hlt⟩
    exact absurd (hmax m hm) (by omega)
  exact exec_transmit_accepted hs hy (by simp [checkCode, Nat.lt_of_succ_le hlen, heven, hfits])

/-- Settles O18: the three reasons are the check's three tests, in its order. -/
theorem invalidArgumentReasonsInOrder : Obligations.InvalidArgumentReasonsInOrder := by
  intro s code hs hy why hwhy
  refine exec_transmit_refused hs hy ?_
  rcases hwhy with ⟨hlen, rfl⟩ | ⟨hlen, hodd, rfl⟩ | ⟨hlen, heven, rfl, m, hm, hlong⟩
  · exact if_pos hlen
  · simp [checkCode, Nat.lt_of_succ_le hlen, hodd]
  · have hlong : tooLong s.cfg (adjustCode code) = true := by
      refine (tooLong_iff _ _).mpr ⟨m, hm, ?_⟩
      rcases hlong with ⟨hends, hlt⟩ | ⟨hends, hlt⟩
      · rwa [(adjustCode_eq_iff code code).mpr (.inl ⟨hends, rfl⟩)]
      · rw [(adjustCode_eq_iff code _).mpr (.inr ⟨hends, rfl⟩)]
        simpa using hlt
    simp [checkCode, Nat.lt_of_succ_le hlen, heven, hlong]

end Sys2Proof.Machine
end

section
/-! The wire commands at their positions and away from them (30_encoding.md section 3; 20_memory.md section 1). -/

namespace Sys2Proof.Machine

variable {s t : State}

/-! ### at a position that issues the command -/

/-- A command at its site, answered with a count: its string is written, and the position's MODE assignment takes effect
(R85; 41_mode_transitions.md R133). -/
theorem exec_command_done {c : Instr} {q : Pos} {n : Nat} {rest : List OutAnswer} (hsite : (c, s.seq, q) ∈ commandSites)
    (ho : s.outAns = .done n :: rest) :
    exec c s = .next { s with
      mode := (s.seq.sets s.cfg).getD s.mode, seq := q, outAns := rest, trace := s.trace ++ [.write c.wireBytes n] } := by
  have hm := commandSites_micro _ _ hsite rfl
  have hn : s.seq.next = q := commandSites_next _ _ hsite rfl
  obtain ⟨-, hexec⟩ := decode_of_micro hm
  rw [hexec, emitCommand_here hm, chWrite_done ho, ← hn]
  rfl

/-- Settles O19: a reset site writes CMD_RESET and assigns Idle. -/
theorem resetSequenceSetsIdle : Obligations.ResetSequenceSetsIdle := by
  rintro s p q n rest hsite rfl ho
  rw [exec_command_done (q := q) (List.mem_append_left _ (List.mem_map_of_mem hsite)) ho, resetSites_sets hsite]
  rfl

/-- Settles O20: every other site writes its command's string and assigns nothing. -/
theorem commandsWriteTheirStrings : Obligations.CommandsWriteTheirStrings := by
  rintro s c p q bs n rest hsite hbs rfl ho
  obtain ⟨-, hbytes⟩ := commandStrings_bytes _ hbs
  rw [exec_command_done (q := q) (List.mem_append_right _ hsite) ho, otherSites_sets _ _ hsite rfl, hbytes]
  rfl

/-- Settles O21: the slice is not empty, since CIDX is below CLEN, and its count is added to WSUM. -/
theorem chunkWriteAddsItsCount : Obligations.ChunkWriteAddsItsCount := by
  intro s n rest hs hlt hlen ho
  have hne : s.chunk ≠ [] := by
    have := chunk_length s
    exact List.length_pos_iff.mp (by omega)
  rw [State.slice_eq_chunk, exec, execData_here hs hne, chWrite_done ho, advance_of_sets_none (by simp [hs, Pos.sets])]
  simp [hs, Pos.next, State.log]

/-! ### away from them -/

/-- The meaning of each of the seven commands is its one write. -/
theorem exec_commandStrings {c : Instr} {bs : List Byte} (h : (c, bs) ∈ commandStrings) :
    exec c s = emitCommand c s ∧ c ∈ [Instr.cmdReset, .cmdVersion, .cmdSample, .cmdIr, .cmdTxHandshake, .cmdTxNotify,
      .cmdTxStart] := by
  simp only [commandStrings, List.mem_cons, List.not_mem_nil, or_false, Prod.mk.injEq] at h
  rcases h with ⟨rfl, -⟩ | ⟨rfl, -⟩ | ⟨rfl, -⟩ | ⟨rfl, -⟩ | ⟨rfl, -⟩ | ⟨rfl, -⟩ | ⟨rfl, -⟩ <;> exact ⟨rfl, by decide⟩

/-- Settles O22: a position that is no site of the command does not issue it; DATA compares its bytes with the slice. -/
theorem commandOutOfPlaceIsRefused : Obligations.CommandOutOfPlaceIsRefused := by
  refine fun s => ⟨fun c bs hbs hsites => ?_, fun bs hbad => ?_, fun hs hne => ?_, fun hs hempty => ?_⟩
  · obtain ⟨hexec, hc⟩ := exec_commandStrings (s := s) hbs
    rw [hexec, emitCommand_elsewhere]
    intro hm
    obtain ⟨-, -, hsite⟩ := commandSites_complete _ c hc hm
    exact hsites _ hsite
  · rw [State.slice_eq_chunk] at hbad
    exact if_neg fun ⟨hs, hbs⟩ => hbad.elim (absurd hs) (absurd hbs)
  · rw [State.slice_eq_chunk] at hne ⊢
    rw [exec, execData_here hs hne]
    exact chWrite_next fun _ _ => ⟨_, rfl⟩
  · rw [State.slice_eq_chunk] at hempty
    simp [exec, execData, hs, hempty]

end Sys2Proof.Machine
end

section
/-! Frames (10_state.md section 10): what the host operations and the wire commands leave unchanged on every path. -/

namespace Sys2Proof.Machine

variable {s t : State}

/-! ### the host operations -/

/-- An operation that needs READY is at REST, and either takes its request and goes on, or takes it and is refused. -/
theorem atRest_ifReady_cases {accept : State → Out} (h : atRest (ifReady accept) s = .next t) :
    s.seq = .rest ∧ (accept s.takeRequest = .next t ∨
      t = { s with opIn := s.opIn.tail, answers := s.answers ++ [.fail .notReady] }) := by
  obtain ⟨hs, h⟩ := atRest_cases h
  rcases ifReady_cases h with ⟨-, h⟩ | ⟨-, rfl⟩
  · exact ⟨hs, .inl h⟩
  · exact ⟨hs, .inr (raise_takeRequest hs _)⟩

/-- An operation that only begins moves SEQ, answers and takes its request, and nothing else. -/
theorem atRest_ifReady_begin_frame {p : Pos} (h : atRest (ifReady (begin p)) s = .next t) :
    t = { s with seq := t.seq, answers := t.answers, opIn := s.opIn.tail } := by
  obtain ⟨-, h | rfl⟩ := atRest_ifReady_cases h
  · cases h; rfl
  · rfl

/-- op = 7 only answers. -/
theorem execIllegal_frame (h : execIllegal s = .next t) :
    t = { s with seq := t.seq, answers := t.answers, opIn := s.opIn.tail } := by
  obtain ⟨hs, h⟩ := atRest_cases h
  rw [raise_takeRequest hs] at h
  cases h; rfl

/-- CONSTRUCT clears READY and the valid bits, and nothing else (40_version_construct.md R113). -/
theorem execConstruct_frame (h : execConstruct s = .next t) : t = { s with
    ready := t.ready, hsv := t.hsv, bcv := t.bcv, cfv := t.cfv, seq := t.seq, answers := t.answers
    opIn := s.opIn.tail } := by
  obtain ⟨-, h⟩ := atRest_cases h
  cases h; rfl

/-- RECEIVE clears RBUF and RCNT, and nothing else (42_receive.md R150). -/
theorem execReceive_frame (h : execReceive s = .next t) :
    t = { s with rbuf := t.rbuf, rcnt := t.rcnt, seq := t.seq, answers := t.answers, opIn := s.opIn.tail } := by
  obtain ⟨-, h | rfl⟩ := atRest_ifReady_cases h
  · cases h; rfl
  · rfl

/-- TRANSMIT loads CBUF and CLEN and empties PEND, and nothing else (43_transmit.md R170). -/
theorem execTransmit_frame {code : List Byte} (h : execTransmit code s = .next t) : t = { s with
    cbuf := t.cbuf, clen := t.clen, pend := t.pend, seq := t.seq, answers := t.answers, opIn := s.opIn.tail } := by
  obtain ⟨hs, h | rfl⟩ := atRest_ifReady_cases h
  · dsimp only at h
    split at h
    · rw [raise_takeRequest hs] at h
      cases h; rfl
    · cases h; rfl
  · rfl

/-- Settles O23: the frame of each acceptance. -/
theorem hostOperationFrame : Obligations.HostOperationFrame := by
  refine fun s t code => ⟨fun i hi h => ?_, execConstruct_frame, execReceive_frame, execTransmit_frame⟩
  simp only [List.mem_cons, List.not_mem_nil, or_false] at hi
  rcases hi with rfl | rfl | rfl | rfl | rfl
  · exact atRest_ifReady_begin_frame h
  · exact atRest_ifReady_begin_frame h
  · exact atRest_ifReady_begin_frame h
  · exact atRest_ifReady_begin_frame h
  · exact execIllegal_frame h

/-! ### the wire commands -/

/-- Taking a failure moves SEQ, PEND and the answers, and nothing else (60_exceptions.md R215, R216, R219). -/
theorem raise_frame (e : Exn) (s : State) :
    raise e s = { s with seq := (raise e s).seq, pend := (raise e s).pend, answers := (raise e s).answers } := by
  unfold raise
  split <;> rfl

/-- A write without an answer, or with a fault, changes SEQ, PEND and the answers at most. -/
theorem chWrite_frame {bs : List Byte} {k : Nat → State → Out} (h : chWrite bs k s = .next t) :
    (∃ n rest, s.outAns = .done n :: rest ∧ k n ({ s with outAns := rest }.log (.write bs n)) = .next t) ∨
      t = { s with
        seq := t.seq, pend := t.pend, answers := t.answers, outAns := s.outAns.tail, trace := t.trace } := by
  rcases chWrite_cases h with ⟨ho, rfl⟩ | hdone | ⟨x, rest, ho, rfl⟩
  · have htail : t.outAns.tail = t.outAns := by simp [ho]
    rw [htail]
    exact .inr rfl
  · exact .inl hdone
  · rw [ho, raise_frame]
    exact .inr rfl

/-- A command changes MODE as its position says, and no other register than SEQ and, on a fault, PEND (10_state.md section
10). -/
theorem emitCommand_frame {c : Instr} (h : emitCommand c s = .next t) :
    s.seq.micro = .command c ∧ (t.mode = s.mode ∨ t.mode = (s.seq.sets s.cfg).getD s.mode) ∧ t = { s with
      mode := t.mode, seq := t.seq, pend := t.pend, answers := t.answers, outAns := s.outAns.tail
      trace := t.trace } := by
  obtain ⟨hm, -⟩ := emitCommand_cases h
  rw [emitCommand_here hm] at h
  refine ⟨hm, ?_⟩
  rcases chWrite_frame h with ⟨n, rest, ho, h⟩ | h
  · rw [ho]
    cases h
    exact ⟨.inr rfl, rfl⟩
  · rw [h]
    exact ⟨.inl rfl, rfl⟩

/-- Only CMD_RESET assigns MODE (41_mode_transitions.md R133). -/
theorem sets_none_of_command {p : Pos} {c : Instr} (hm : p.micro = .command c) (hc : c ≠ .cmdReset) (cfg : Config) :
    p.sets cfg = none := by
  obtain ⟨-, -, hsite⟩ := commandSites_complete p c (p.micro_command hm) hm
  rcases List.mem_append.mp hsite with hreset | hother
  · obtain ⟨_, -, heq⟩ := List.mem_map.mp hreset
    exact absurd (congrArg Prod.fst heq).symm hc
  · exact otherSites_sets p _ hother rfl cfg

/-- Every command but CMD_RESET leaves MODE as well. -/
theorem emitCommand_frame_of_ne_reset {c : Instr} (hc : c ≠ .cmdReset) (h : emitCommand c s = .next t) : t = { s with
    seq := t.seq, pend := t.pend, answers := t.answers, outAns := s.outAns.tail, trace := t.trace } := by
  obtain ⟨hm, hmode, hframe⟩ := emitCommand_frame h
  have hkept : t.mode = s.mode := by simpa [sets_none_of_command hm hc] using hmode
  rwa [hkept] at hframe

/-- DATA changes WSUM, SEQ and, on a fault, PEND (43_transmit.md R175, R176). -/
theorem execData_frame {bytes : List Byte} (h : execData bytes s = .next t) : t = { s with
    wsum := t.wsum, seq := t.seq, pend := t.pend, answers := t.answers, outAns := s.outAns.tail, trace := t.trace } := by
  obtain ⟨hs, h⟩ := execData_cases h
  rcases chWrite_frame h with ⟨n, rest, ho, h⟩ | h
  · rw [advance_of_sets_none (by simp [hs, Pos.sets])] at h
    rw [ho]
    cases h
    rfl
  · rw [h]

/-- Settles O24: the frames of a command and of DATA. -/
theorem wireCommandFrame : Obligations.WireCommandFrame := by
  refine fun s t bytes => ⟨fun c hc h => ?_, fun h => ?_, execData_frame⟩
  · simp only [List.mem_cons, List.not_mem_nil, or_false] at hc
    rcases hc with rfl | rfl | rfl | rfl | rfl | rfl <;> exact emitCommand_frame_of_ne_reset (by decide) h
  · obtain ⟨-, -, hframe⟩ := emitCommand_frame h
    exact hframe

end Sys2Proof.Machine
end

section
/-! Failures and hangs (60_exceptions.md sections 1 and 2): a channel fault outside the protected section, and a transaction
that the channel does not answer. -/

namespace Sys2Proof.Machine

variable {s u : State}

/-- A channel fault in recovery empties PEND and is the answer (R219). -/
theorem step_fault_recovery {x : FaultInfo} (hd : s.noResetDue) (hr : s.seq.region = .recovery)
    (h : faultsWith s x u) :
    step s = .next { u with
      pend := none, seq := .rest, answers := s.answers ++ [.fail (.channelFault x)], rstIn := countDown s.rstIn } := by
  obtain ⟨hstep, -⟩ := step_fault hd h
  obtain ⟨_, _, _, rfl⟩ := faultsWith_frame h
  exact hstep.trans (congrArg _ (raise_recovery _ _ hr))

/-- Settles O27: recovery is left by `step_fault_recovery`. -/
theorem secondFaultAbandonsRecovery : Obligations.SecondFaultAbandonsRecovery :=
  fun _ _ _ hd hf hr => step_fault_recovery hd ((mem_recoveryPositions _).mp hr) hf

/-- Settles O25: a position in neither list is a plain one, left by `step_fault_plain`. -/
theorem channelFaultAbortsTheOperation : Obligations.ChannelFaultAbortsTheOperation := by
  intro s u x hd hf hg hr
  rw [mem_guardedPositions] at hg
  rw [mem_recoveryPositions] at hr
  refine step_fault_plain hd ?_ hf
  cases hregion : s.seq.region with
  | plain => rfl
  | guarded => exact absurd hregion hg
  | recovery => exact absurd hregion hr

/-! ### hangs -/

/-- At REST with no request the step waits (10_state.md R27; log 3). -/
theorem step_waits (hd : s.noResetDue) (hs : s.seq = .rest) (ho : s.opIn = []) : step s = .next s.tick := by
  rw [step_of_noResetDue hd, stepSequencer_waits (s := s.tick) hs ho]

/-- A read whose bytes have not all arrived hangs (20_memory.md R52). -/
theorem step_read_short {k : Nat} {bs : List Byte} (hd : s.noResetDue) (hm : s.seq.micro = .read k) (hlen : bs.length < k)
    (he : s.inEvents = delivers bs) : step s = .next s.tick := by
  rw [step_of_noResetDue hd, stepSequencer_read (s := s.tick) hm, chRead_waiting]
  rw [State.tick_inEvents, he, takeBytes_short hlen]

/-- The step at the chunk position is one ChWrite of the slice (43_transmit.md R175). -/
theorem step_chunkWrite (hd : s.noResetDue) (hs : s.seq = .txWC) (hne : s.slice ≠ []) :
    step s = chWrite s.slice (fun n u => .next { u with wsum := u.wsum + n }.advance) s.tick := by
  rw [State.slice_eq_chunk] at hne ⊢
  rw [step_of_noResetDue hd, stepSequencer_chunk (s := s.tick) hs hne]
  exact execData_here (s := s.tick) hs hne

/-- The step at CON.F is one ChFlush (20_memory.md R53). -/
theorem step_flush (hd : s.noResetDue) (hs : s.seq = .conF) :
    step s = chFlush (fun t => .next t.advance) s.tick := by
  rw [step_of_noResetDue hd, stepSequencer_flush (s := s.tick) (by rw [State.tick_seq, hs]; rfl)]
  rfl

/-- A flush with no answer yet leaves the machine where it is (20_memory.md R53; log 2). -/
theorem chFlush_waiting {done : State → Out} (h : s.outAns = []) : chFlush done s = .next s := by
  simp [chFlush, h]

/-- A flush that the channel answers goes on, whatever the count (R53). -/
theorem chFlush_done {done : State → Out} {n : Nat} {rest : List OutAnswer} (h : s.outAns = .done n :: rest) :
    chFlush done s = done ({ s with outAns := rest }.log .flush) := by
  simp [chFlush, h]

/-- Settles O29: each transaction without its answer is a step that only counts towards the next hardware reset. -/
theorem unansweredTransactionsHang : Obligations.UnansweredTransactionsHang := by
  refine fun s hd => ⟨step_waits hd, fun k bs hsite hlen he => ?_, fun c q hsite ho => ?_, fun hs ho => ?_⟩
  · obtain ⟨hm, hbusy⟩ := readSites_micro _ _ hsite rfl
    exact ⟨step_read_short hd hm hlen he, s.status_busy_iff.mpr hbusy⟩
  · have hm := commandSites_micro _ _ hsite rfl
    obtain ⟨-, hbusy, -⟩ := commandSites_complete _ c (Pos.micro_command _ hm) hm
    exact ⟨(step_command hd hm).trans (chWrite_waiting (s := s.tick) ho), s.status_busy_iff.mpr hbusy⟩
  · rcases hs with hs | ⟨hs, hne⟩ <;> refine ⟨?_, s.status_busy_iff.mpr (by simp [hs])⟩
    · exact (step_flush hd hs).trans (chFlush_waiting (s := s.tick) ho)
    · exact (step_chunkWrite hd hs hne).trans (chWrite_waiting (s := s.tick) ho)

end Sys2Proof.Machine
end

section
/-! Reads with a check of their own (30_encoding.md section 4): the version response, the receive loop, the chunk's
handshake and the head of the report. -/

namespace Sys2Proof.Machine

variable {s : State}

/-! ### the version response -/

/-- A byte below or above the decimal digits has no digit value (R87). -/
theorem digit_none {v : Byte} (h : v.toNat < 0x30 ∨ 0x39 < v.toNat) : digit v = none := by
  unfold digit
  rw [if_neg (by omega)]

/-- A response with a byte that is no digit does not parse (R87; decision D10). -/
theorem parseVersion_none {v0 v1 v2 v3 : Byte} (h : ∃ v ∈ [v1, v2, v3], v.toNat < 0x30 ∨ 0x39 < v.toNat) :
    parseVersion [v0, v1, v2, v3] = none := by
  have hdigits : ∀ p, parseVersion [v0, v1, v2, v3] = some p → ∀ v ∈ [v1, v2, v3], digit v ≠ none := by
    intro p hp
    simp only [parseVersion] at hp
    split at hp
    · rename_i h1 h2 h3
      simp only [byteAt, List.getD_cons_succ, List.getD_cons_zero] at h1 h2 h3
      simp [h1, h2, h3]
    · cases hp
  obtain ⟨v, hv, hbad⟩ := h
  exact Option.eq_none_iff_forall_ne_some.mpr fun p hp => hdigits p hp v hv (digit_none hbad)

/-- FWREV answers the version that parses (40_version_construct.md R111). -/
theorem fwrevReadDone_ok {v : List Byte} {hw fw : Nat} (hp : parseVersion v = some (hw, fw)) :
    fwrevReadDone v s = .next { s with
      vbuf := v, seq := .rest, answers := s.answers ++ [.ok (.version hw fw)] } := by
  simp only [fwrevReadDone, hp]
  rfl

/-- CONSTRUCT goes on to the sampling entry from version 22 (R113). -/
theorem constructReadDone_ok {v : List Byte} {hw fw : Nat} (hs : s.seq = .conFwr .r)
    (hp : parseVersion v = some (hw, fw)) (hfw : 22 ≤ fw) :
    constructReadDone v s = .next { s with vbuf := v, seq := .conSmp (.rst .p1) } := by
  have hold : firmwareTooOld fw = false := decide_eq_false (Nat.not_lt.mpr hfw)
  simp only [constructReadDone, hp, hold]
  simp [State.advance, State.assignMode, hs, Pos.sets, Fwr.sets, Pos.next, Fwr.next]

/-- CONSTRUCT refuses the firmware below version 22 (R113; the payload is decision D27). -/
theorem constructReadDone_old {v : List Byte} {hw fw : Nat} (hs : s.seq = .conFwr .r)
    (hp : parseVersion v = some (hw, fw)) (hfw : fw < 22) :
    constructReadDone v s = .next { s with
      vbuf := v, seq := .rest, answers := s.answers ++ [.fail (.firmwareVersionError hw fw)] } := by
  have hold : firmwareTooOld fw = true := decide_eq_true hfw
  simp only [constructReadDone, hp, hold, if_true]
  exact congrArg _ (raise_plain _ _ (by simp [hs, Pos.region]))

/-- A response that does not parse is FWREV's answer (decision D27). -/
theorem fwrevReadDone_fail {v : List Byte} (hs : s.seq = .fwr .r) (hp : parseVersion v = none) :
    fwrevReadDone v s = .next { s with
      vbuf := v, seq := .rest, answers := s.answers ++ [.fail (.versionParseFault v)] } := by
  simp only [fwrevReadDone, hp]
  exact congrArg _ (raise_plain _ _ (by simp [hs, Pos.region]))

/-- A response that does not parse is CONSTRUCT's answer (decision D27). -/
theorem constructReadDone_fail {v : List Byte} (hs : s.seq = .conFwr .r) (hp : parseVersion v = none) :
    constructReadDone v s = .next { s with
      vbuf := v, seq := .rest, answers := s.answers ++ [.fail (.versionParseFault v)] } := by
  simp only [constructReadDone, hp]
  exact congrArg _ (raise_plain _ _ (by simp [hs, Pos.region]))

/-- The step at FWR.R with the response at the head of the stream is the completion of that read. -/
theorem step_fwrevRead {v : List Byte} {rest : List InEvent} (hd : s.noResetDue) (hs : s.seq = .fwr .r)
    (hl : v.length = 4) (he : s.inEvents = delivers v ++ rest) :
    step s = fwrevReadDone v ({ s.tick with inEvents := rest }.log (.read 4 v)) := by
  rw [step_read hd (k := 4) (by rw [hs]; rfl) hl he]
  simp [readDone, State.tick, hs]

/-- The step at CON.FWR.R alike. -/
theorem step_constructRead {v : List Byte} {rest : List InEvent} (hd : s.noResetDue) (hs : s.seq = .conFwr .r)
    (hl : v.length = 4) (he : s.inEvents = delivers v ++ rest) :
    step s = constructReadDone v ({ s.tick with inEvents := rest }.log (.read 4 v)) := by
  rw [step_read hd (k := 4) (by rw [hs]; rfl) hl he]
  simp [readDone, State.tick, hs]

/-- FWREV's read of a version that parses is its last step (R111). -/
theorem step_fwrev_answer {v : List Byte} {hw fw : Nat} {rest : List InEvent} (hd : s.noResetDue) (hs : s.seq = .fwr .r)
    (hl : v.length = 4) (he : s.inEvents = delivers v ++ rest) (hp : parseVersion v = some (hw, fw)) :
    step s = .next { s with
      vbuf := v, seq := .rest, answers := s.answers ++ [.ok (.version hw fw)], inEvents := rest
      trace := s.trace ++ [.read 4 v], rstIn := countDown s.rstIn } :=
  (step_fwrevRead hd hs hl he).trans (fwrevReadDone_ok hp)

/-- CONSTRUCT's read of a version from 22 on leads to the sampling entry (R113). -/
theorem step_construct_goesOn {v : List Byte} {hw fw : Nat} {rest : List InEvent} (hd : s.noResetDue)
    (hs : s.seq = .conFwr .r) (hl : v.length = 4) (he : s.inEvents = delivers v ++ rest)
    (hp : parseVersion v = some (hw, fw)) (hfw : 22 ≤ fw) :
    step s = .next { s with
      vbuf := v, seq := .conSmp (.rst .p1), inEvents := rest, trace := s.trace ++ [.read 4 v]
      rstIn := countDown s.rstIn } :=
  (step_constructRead hd hs hl he).trans (constructReadDone_ok hs hp hfw)

/-- CONSTRUCT's read of a version below 22 is its last step (R113). -/
theorem step_construct_old {v : List Byte} {hw fw : Nat} {rest : List InEvent} (hd : s.noResetDue)
    (hs : s.seq = .conFwr .r) (hl : v.length = 4) (he : s.inEvents = delivers v ++ rest)
    (hp : parseVersion v = some (hw, fw)) (hfw : fw < 22) :
    step s = .next { s with
      vbuf := v, seq := .rest, answers := s.answers ++ [.fail (.firmwareVersionError hw fw)], inEvents := rest
      trace := s.trace ++ [.read 4 v], rstIn := countDown s.rstIn } :=
  (step_constructRead hd hs hl he).trans (constructReadDone_old hs hp hfw)

/-- Settles O30: the read of four bytes, then the parse: three digits, or one byte that is none. -/
theorem versionResponseIsParsed : Obligations.VersionResponseIsParsed := by
  intro s v0 v1 v2 v3 rest hd he
  refine ⟨fun a b c ha hb hc h1 h2 h3 => ?_, fun hbad hs => ?_⟩
  · have hp : parseVersion [v0, v1, v2, v3] = some (a, 10 * b + c) := parseVersion_of ha hb hc h1 h2 h3
    exact ⟨fun hs => step_fwrev_answer hd hs rfl he hp, fun hs hfw => step_construct_goesOn hd hs rfl he hp hfw,
      fun hs hfw => step_construct_old hd hs rfl he hp hfw⟩
  · have hp : parseVersion [v0, v1, v2, v3] = none := parseVersion_none hbad
    rcases hs with hs | hs
    · exact (step_fwrevRead hd hs rfl he).trans (fwrevReadDone_fail hs hp)
    · exact (step_constructRead hd hs rfl he).trans (constructReadDone_fail hs hp)

/-! ### the receive loop -/

/-- RBUF is full when it holds RBUF_MAX bytes (92_eei_decisions.md D23). -/
theorem receiveFull_iff (cfg : Config) (rbuf : List Byte) :
    receiveFull cfg rbuf = true ↔ ∃ m, cfg.rbufMax = some m ∧ m ≤ rbuf.length := by
  unfold receiveFull
  split <;> rename_i h <;> simp [h]

/-- The detector fires from the third byte on, at two bytes of 0xFF (42_receive.md R151). -/
theorem terminatorFires_iff (rcnt : Nat) (prev b : Byte) :
    terminatorFires rcnt prev b = true ↔ 3 ≤ rcnt ∧ b = 0xFF ∧ prev = 0xFF := by
  simp only [terminatorFires, Bool.and_eq_true, decide_eq_true_eq, beq_iff_eq, and_assoc]
  rfl

/-- Settles O38: where RBUF has room the byte is received and the detector asked; where it has none the run is refused. -/
theorem receiveLoopStep : Obligations.ReceiveLoopStep := by
  refine fun s b rest hd hs he => ⟨fun hroom => ?_, fun m hm hfull => ?_⟩
  · have hf : receiveFull s.cfg s.rbuf = false := by
      refine Bool.eq_false_iff.mpr fun hfull => ?_
      obtain ⟨m, hm, hle⟩ := (receiveFull_iff _ _).mp hfull
      exact absurd (hroom m hm) (by omega)
    simpa only [terminatorFires_iff] using step_received hd hs hf he
  · have hf : receiveFull s.cfg s.rbuf = true := (receiveFull_iff _ _).mpr ⟨m, hm, hfull⟩
    rw [step_read hd (k := 1) (by rw [hs]; rfl) (bs := [b]) rfl he]
    simp [readDone, State.tick, receiveReadDone, hs, hf]

/-! ### the handshake of a chunk and the head of the report -/

/-- Settles O43: the completion of the handshake read, at the state that the read leaves. -/
theorem chunkHandshakeDecidesTheLoop : Obligations.ChunkHandshakeDecidesTheLoop :=
  fun _ h _ hd hs he => (step_chunkHandshake hd hs he).trans (chunkHandshakeDone_eq [h] hs)

/-- A count that decodes is stored, and the flag is read next (43_transmit.md R178). -/
theorem reportReadDone_ok {r : List Byte} {n : Half} (hs : s.seq = .txR3)
    (hn : decodeCount s.cfg.countDecode (byteAt r 1) (byteAt r 2) = some n) :
    reportReadDone r s = .next { s with bc := n, bcv := true, seq := .txR1 } := by
  simp [reportReadDone, hn, State.advance, State.assignMode, hs, Pos.sets, Pos.next]

/-- Under raw16be the count is the two bytes, most significant first (30_encoding.md R92). -/
theorem decodeCount_raw16be (r1 r2 : Byte) :
    ∃ n : Half, n.toNat = 256 * r1.toNat + r2.toNat ∧ decodeCount .raw16be r1 r2 = some n := by
  refine ⟨_, ?_, rfl⟩
  have := r1.isLt
  have := r2.isLt
  rw [BitVec.toNat_ofNat, Nat.mod_eq_of_lt (by omega)]

/-- Under asciihex2 the count is the two hex digits (R92). -/
theorem decodeCount_asciihex2 {r1 r2 : Byte} {a b : Nat} (ha : hexDigit r1 a) (hb : hexDigit r2 b) :
    ∃ n : Half, n.toNat = 16 * a + b ∧ decodeCount .asciihex2 r1 r2 = some n := by
  refine ⟨BitVec.ofNat 16 (16 * a + b), ?_, by
    simp only [decodeCount, hexval_of_hexDigit ha, hexval_of_hexDigit hb]⟩
  have := hexval_lt (hexval_of_hexDigit ha)
  have := hexval_lt (hexval_of_hexDigit hb)
  rw [BitVec.toNat_ofNat, Nat.mod_eq_of_lt (by omega)]

/-- Settles O45: the read of the head, then the decode of its two count bytes under the parameter. -/
theorem reportCountIsDecoded : Obligations.ReportCountIsDecoded := by
  intro s r0 r1 r2 rest hd hs he
  have hread := step_reportHead hd hs (r := [r0, r1, r2]) rfl he
  refine ⟨fun hcfg => ?_, fun hcfg a b ha hb => ?_, fun hcfg hbad => ?_⟩
  · obtain ⟨n, hn, hdec⟩ := decodeCount_raw16be r1 r2
    exact ⟨n, hn, hread.trans (reportReadDone_ok hs (hcfg ▸ hdec))⟩
  · obtain ⟨n, hn, hdec⟩ := decodeCount_asciihex2 ha hb
    exact ⟨n, hn, hread.trans (reportReadDone_ok hs (hcfg ▸ hdec))⟩
  · exact hread.trans (reportReadDone_fail hs (hcfg ▸ decodeCount_of_noHexDigit hbad))

end Sys2Proof.Machine
end

section
/-! The mode operations from acceptance to their answer (41_mode_transitions.md R130 to R132), on a channel that answers. -/

namespace Sys2Proof.Machine

variable {s : State}

/-- An operation that moves SEQ to its first position at acceptance, as a step (30_encoding.md R82 (4)). -/
theorem step_begins {i : Instr} {p : Pos} {r : Request} {reqs : List Request} (hd : s.quiet) (hs : s.seq = .rest)
    (hr : s.opIn = r :: reqs) (hdec : decodeRequest r = i)
    (hexec : exec i s = .next { s with opIn := s.opIn.tail, seq := p }) :
    step s = .next { s with opIn := reqs, seq := p } := by
  rw [step_quiet hd, stepSequencer_request hs hr, hdec, hexec, hr, List.tail_cons]

/-- The last pause of RESET, SAMPLE and IRMODE: the MODE of the position, Ok with no value, and REST (R130 to R132). -/
theorem step_endsPlain {p : Pos} {m : Mode} (hd : s.quiet) (hs : s.seq = p) (hp : p ∈ [Pos.rst .p2, .smp .p2, .irmP])
    (hm : (p.sets s.cfg).getD s.mode = m) :
    step s = .next { s with
      mode := m, seq := .rest, answers := s.answers ++ [.ok .nothing], trace := s.trace ++ [.pause] } := by
  subst hs hm
  simp only [List.mem_cons, List.not_mem_nil, or_false] at hp
  rcases hp with hp | hp | hp <;>
  · rw [step_quiet hd, stepSequencer_pause (by rw [hp]; rfl)]
    simp only [pauseDone, State.log_seq, hp]
    simp [endsPlain, State.assignMode, State.finish, State.log, hp]

/-- Settles O34: acceptance, the two steps to the reset write, and the last pause. -/
theorem resetRunsFromAnyMode : Obligations.ResetRunsFromAnyMode := by
  intro s r reqs n outs hd hs hy hr hop ha
  obtain ⟨-, haccept, -, -⟩ := modeOperationsAreAccepted s hs hy
  calc run 4 s = run 3 { s with opIn := reqs, seq := .rst .p1 } :=
        run_succ (step_begins hd hs hr (by simp [decodeRequest, hop]) haccept)
    _ = run 2 { s with opIn := reqs, seq := .rst .w, trace := s.trace ++ [.pause] } :=
        run_succ (step_pause_goesOn (o := none) hd rfl rfl rfl rfl (by decide) (by decide))
    _ = run 1 { s with
          opIn := reqs, mode := .idle, seq := .rst .p2, outAns := outs
          trace := s.trace ++ [.pause] ++ [.write [0, 0, 0, 0, 0] n] } :=
        run_succ (step_command_done (c := .cmdReset) (o := some .idle) hd rfl rfl rfl rfl ha)
    _ = run 0 { s with
          opIn := reqs, mode := .idle, seq := .rest, answers := s.answers ++ [.ok .nothing], outAns := outs
          trace := s.trace ++ [.pause] ++ [.write [0, 0, 0, 0, 0] n] ++ [.pause] } :=
        run_succ (step_endsPlain (p := .rst .p2) hd rfl (by decide) rfl)
    _ = _ := by simp [run, resetTrace, hs]

/-- The sampling entry of SAMPLE. -/
theorem sampleInline_sample : SampleInline .smp .rest := ⟨fun _ => rfl, fun _ => rfl, fun _ _ => rfl, by decide⟩

/-- Settles O35: acceptance, the sampling entry, and the last pause. -/
theorem sampleRunsFromAnyMode : Obligations.SampleRunsFromAnyMode := by
  intro s r reqs a b q outs ins hd hs hy hr hop ha hq he
  obtain ⟨-, -, haccept, -⟩ := modeOperationsAreAccepted s hs hy
  calc run 8 s = run 7 { s with opIn := reqs, seq := .smp (.rst .p1) } :=
        run_succ (step_begins hd hs hr (by simp [decodeRequest, hop]) haccept)
    _ = run 1 { s with
          opIn := reqs, mode := .idle, seq := .smp .p2, outAns := outs, inEvents := ins
          trace := s.trace ++ resetTrace a ++ [.write [0x53] b, .pause, .read 3 q] } :=
        run_add (a := 6) (b := 1) (run_sampleInline sampleInline_sample hd rfl ha hq he)
    _ = run 0 { s with
          opIn := reqs, mode := .sampling, seq := .rest, answers := s.answers ++ [.ok .nothing], outAns := outs
          inEvents := ins
          trace := s.trace ++ resetTrace a ++ [.write [0x53] b, .pause, .read 3 q] ++ [.pause] } :=
        run_succ (step_endsPlain (p := .smp .p2) hd rfl (by decide) rfl)
    _ = _ := by simp [run, sampleTrace, hs]

/-- The reset sequence of IRMODE. -/
theorem resetInline_irmode : ResetInline .irmRst .irmW := ⟨fun _ => rfl, fun _ => rfl, fun _ _ => rfl⟩

/-- Settles O36: acceptance, the reset sequence, CMD_IR, and the last pause. -/
theorem irmodeRunsFromAnyMode : Obligations.IrmodeRunsFromAnyMode := by
  intro s r reqs a b outs hd hs hy hr hop ha
  obtain ⟨-, -, -, haccept⟩ := modeOperationsAreAccepted s hs hy
  calc run 6 s = run 5 { s with opIn := reqs, seq := .irmRst .p1 } :=
        run_succ (step_begins hd hs hr (by simp [decodeRequest, hop]) haccept)
    _ = run 2 { s with
          opIn := reqs, mode := .idle, seq := .irmW, outAns := .done b :: outs, trace := s.trace ++ resetTrace a } :=
        run_add (a := 3) (b := 2) (run_resetInline resetInline_irmode (by decide) (by decide) hd rfl ha)
    _ = run 1 { s with
          opIn := reqs, mode := .idle, seq := .irmP, outAns := outs
          trace := s.trace ++ resetTrace a ++ [.write [0x49, 0x52] b] } :=
        run_succ (step_command_done (c := .cmdIr) (o := none) hd rfl rfl rfl rfl rfl)
    _ = run 0 { s with
          opIn := reqs, mode := s.cfg.irModeResult, seq := .rest, answers := s.answers ++ [.ok .nothing], outAns := outs
          trace := s.trace ++ resetTrace a ++ [.write [0x49, 0x52] b] ++ [.pause] } :=
        run_succ (step_endsPlain (p := .irmP) hd rfl (by decide) rfl)
    _ = _ := by simp [run, hs]

end Sys2Proof.Machine
end

section
/-! FWREV and CONSTRUCT from acceptance to their answer (40_version_construct.md R111, R113), on a channel that answers. -/

namespace Sys2Proof.Machine

variable {s : State}

/-! ### the version query -/

/-- The version query stands in line, its positions named by `x`, and `after` follows it (R111). -/
structure VersionInline (x : Fwr → Pos) (after : Pos) : Prop where
  micro : ∀ f, (x f).micro = f.micro
  next : ∀ f, (x f).next = f.next x after
  sets : ∀ cfg f, (x f).sets cfg = f.sets

/-- The reset sequence stands in line in the version query (R111). -/
theorem VersionInline.reset {x : Fwr → Pos} {after : Pos} (hx : VersionInline x after) :
    ResetInline (fun r => x (.rst r)) (x .w) :=
  ⟨fun r => hx.micro (.rst r), fun r => hx.next (.rst r), fun cfg r => hx.sets cfg (.rst r)⟩

/-- The version query up to its read: the device is reset, MODE is Idle, and 'v' is written (R111). -/
theorem run_versionInline {x : Fwr → Pos} {after : Pos} {a b : Nat} {outs : List OutAnswer} (hx : VersionInline x after)
    (hd : s.quiet) (hs : s.seq = x (.rst .p1)) (ha : s.outAns = .done a :: .done b :: outs) :
    run 5 s = .next { s with
      mode := .idle, seq := x .r, outAns := outs
      trace := s.trace ++ resetTrace a ++ [.write [0x76] b, .pause] } := by
  have hw : (x .w).micro = .command .cmdVersion := hx.micro .w
  have hread : (x .r).micro = .read 4 := hx.micro .r
  calc run 5 s = run 2 { s with mode := .idle, seq := x .w, outAns := .done b :: outs, trace := s.trace ++ resetTrace a } :=
        run_add (a := 3) (b := 2) (run_resetInline hx.reset (by simp [hw]) (by simp [hw]) hd hs ha)
    _ = run 1 { s with
          mode := .idle, seq := x .p, outAns := outs
          trace := s.trace ++ resetTrace a ++ [.write [0x76] b] } :=
        run_succ (step_command_done (c := .cmdVersion) (o := none) hd rfl hw (hx.next _) (hx.sets _ _) rfl)
    _ = run 0 { s with
          mode := .idle, seq := x .r, outAns := outs
          trace := s.trace ++ resetTrace a ++ [.write [0x76] b] ++ [.pause] } :=
        run_succ (step_pause_goesOn (o := none) hd rfl (hx.micro _) (hx.next _) (hx.sets _ _) (by simp [hread])
          (by simp [hread]))
    _ = _ := by simp [run]

theorem versionInline_fwrev : VersionInline .fwr .rest := ⟨fun _ => rfl, fun _ => rfl, fun _ _ => rfl⟩

theorem versionInline_construct : VersionInline .conFwr (.conSmp (.rst .p1)) :=
  ⟨fun _ => rfl, fun _ => rfl, fun _ _ => rfl⟩

/-- Settles O33: acceptance, the version query, and the answer of its read. -/
theorem fwrevAnswersTheVersionAndLeavesIdle : Obligations.FwrevAnswersTheVersionAndLeavesIdle := by
  intro s r reqs a b hw tens units v0 v1 v2 v3 outs ins hd hs hy hr hop ha hhw htens hunits h1 h2 h3 he
  obtain ⟨haccept, -⟩ := modeOperationsAreAccepted s hs hy
  have hp : parseVersion [v0, v1, v2, v3] = some (hw, 10 * tens + units) := parseVersion_of hhw htens hunits h1 h2 h3
  calc run 7 s = run 6 { s with opIn := reqs, seq := .fwr (.rst .p1) } :=
        run_succ (step_begins hd hs hr (by simp [decodeRequest, hop]) haccept)
    _ = run 1 { s with
          opIn := reqs, mode := .idle, seq := .fwr .r, outAns := outs
          trace := s.trace ++ resetTrace a ++ [.write [0x76] b, .pause] } :=
        run_add (a := 5) (b := 1) (run_versionInline versionInline_fwrev hd rfl ha)
    _ = run 0 _ := run_succ (step_fwrev_answer (by simp [hd]) rfl rfl he hp)
    _ = _ := by simp [run, versionTrace, hs, hd, countDown]

/-! ### CONSTRUCT -/

/-- CONSTRUCT is accepted at REST with READY 0 or 1 (R113). -/
theorem step_construct_accepted {r : Request} {reqs : List Request} (hd : s.quiet) (hs : s.seq = .rest)
    (hr : s.opIn = r :: reqs) (hop : r.op = 0) :
    step s = .next { s with opIn := reqs, ready := false, hsv := false, bcv := false, cfv := false, seq := .conF } := by
  have hdecode : decodeRequest r = .construct := by simp [decodeRequest, hop]
  rw [step_quiet hd, stepSequencer_request hs hr, hdecode, constructIsAccepted s hs, hr, List.tail_cons]

/-- The flush that the channel answers goes on to the version query (R113). -/
theorem step_flush_done {n : Nat} {rest : List OutAnswer} (hd : s.quiet) (hs : s.seq = .conF)
    (ho : s.outAns = .done n :: rest) :
    step s = .next { s with
      seq := .conFwr (.rst .p1), outAns := rest, trace := s.trace ++ [.flush] } := by
  have hm : s.seq.micro = .flush := by rw [hs]; rfl
  rw [step_quiet hd, stepSequencer_flush hm, flushStep, chFlush_done ho, advance_of_sets_none (by simp [hs, Pos.sets])]
  simp [State.log, hs, Pos.next]

/-- CONSTRUCT up to its version read: the flush and the version query. -/
theorem run_construct_query {r : Request} {reqs : List Request} {z a b : Nat} {outs : List OutAnswer} (hd : s.quiet)
    (hs : s.seq = .rest) (hr : s.opIn = r :: reqs) (hop : r.op = 0)
    (ha : s.outAns = .done z :: .done a :: .done b :: outs) :
    run 7 s = .next { s with
      opIn := reqs, mode := .idle, ready := false, hsv := false, bcv := false, cfv := false, seq := .conFwr .r
      outAns := outs
      trace := s.trace ++ [.flush] ++ resetTrace a ++ [.write [0x76] b, .pause] } := by
  calc run 7 s = run 6 { s with
          opIn := reqs, ready := false, hsv := false, bcv := false, cfv := false, seq := .conF } :=
        run_succ (step_construct_accepted hd hs hr hop)
    _ = run 5 { s with
          opIn := reqs, ready := false, hsv := false, bcv := false, cfv := false, seq := .conFwr (.rst .p1)
          outAns := .done a :: .done b :: outs, trace := s.trace ++ [.flush] } :=
        run_succ (step_flush_done hd rfl ha)
    _ = run 0 _ := run_add (a := 5) (b := 0) (run_versionInline versionInline_construct hd rfl rfl)
    _ = _ := rfl

/-- Settles O32: the query, and the read that finds the old version. -/
theorem constructRefusesOldFirmware : Obligations.ConstructRefusesOldFirmware := by
  intro s r reqs z a b hw tens units v0 v1 v2 v3 outs ins hd hs hr hop ha hhw htens hunits h1 h2 h3 hfw he
  have hp : parseVersion [v0, v1, v2, v3] = some (hw, 10 * tens + units) := parseVersion_of hhw htens hunits h1 h2 h3
  calc run 8 s = run 1 { s with
          opIn := reqs, mode := .idle, ready := false, hsv := false, bcv := false, cfv := false, seq := .conFwr .r
          outAns := outs
          trace := s.trace ++ [.flush] ++ resetTrace a ++ [.write [0x76] b, .pause] } :=
        run_add (a := 7) (b := 1) (run_construct_query hd hs hr hop ha)
    _ = run 0 _ := run_succ (step_construct_old (by simp [hd]) rfl rfl he hp hfw)
    _ = _ := by simp [run, versionTrace, hd, countDown]

/-- The sampling entry of CONSTRUCT. -/
theorem sampleInline_construct : SampleInline .conSmp .rest := ⟨fun _ => rfl, fun _ => rfl, fun _ _ => rfl, by decide⟩

/-- The last pause of CONSTRUCT: MODE <- Sampling, READY <- 1, and Ok (R113). -/
theorem step_constructDone (hd : s.noResetDue) (hs : s.seq = .conSmp .p2) :
    step s = .next { s with
      mode := .sampling, ready := true, seq := .rest, answers := s.answers ++ [.ok .nothing]
      trace := s.trace ++ [.pause], rstIn := countDown s.rstIn } := by
  rw [step_pause hd (by rw [hs]; rfl)]
  simp [pauseDone, constructDone, State.assignMode, State.finish, State.log, State.tick, hs, Pos.sets, Smp.sets]

/-- Settles O31: the query, the read that finds the version, the sampling entry, and the last pause. -/
theorem constructSucceedsFromVersion22 : Obligations.ConstructSucceedsFromVersion22 := by
  intro s r reqs z a b c d hw tens units v0 v1 v2 v3 q outs ins hd hs hr hop ha hhw htens hunits h1 h2 h3 hfw hq he
  have hp : parseVersion [v0, v1, v2, v3] = some (hw, 10 * tens + units) := parseVersion_of hhw htens hunits h1 h2 h3
  calc run 15 s = run 8 { s with
          opIn := reqs, mode := .idle, ready := false, hsv := false, bcv := false, cfv := false, seq := .conFwr .r
          outAns := .done c :: .done d :: outs
          trace := s.trace ++ [.flush] ++ resetTrace a ++ [.write [0x76] b, .pause] } :=
        run_add (a := 7) (b := 8) (run_construct_query hd hs hr hop ha)
    _ = run 7 { s with
          opIn := reqs, mode := .idle, ready := false, hsv := false, bcv := false, cfv := false
          seq := .conSmp (.rst .p1), vbuf := [v0, v1, v2, v3], outAns := .done c :: .done d :: outs
          inEvents := delivers q ++ ins
          trace := s.trace ++ [.flush] ++ resetTrace a ++ [.write [0x76] b, .pause] ++ [.read 4 [v0, v1, v2, v3]]
          rstIn := countDown s.rstIn } :=
        run_succ (step_construct_goesOn (by simp [hd]) rfl rfl (he.trans (List.append_assoc ..)) hp hfw)
    _ = run 1 { s with
          opIn := reqs, mode := .idle, ready := false, hsv := false, bcv := false, cfv := false, seq := .conSmp .p2
          vbuf := [v0, v1, v2, v3], outAns := outs, inEvents := ins
          trace := s.trace ++ [.flush] ++ resetTrace a ++ [.write [0x76] b, .pause] ++ [.read 4 [v0, v1, v2, v3]] ++
            resetTrace c ++ [.write [0x53] d, .pause, .read 3 q]
          rstIn := countDown s.rstIn } :=
        run_add (a := 6) (b := 1) (run_sampleInline sampleInline_construct (by simp [hd, countDown]) rfl rfl hq rfl)
    _ = run 0 _ := run_succ (step_constructDone (by simp [hd, countDown]) rfl)
    _ = _ := by simp [run, versionTrace, sampleTrace, hd, countDown]

end Sys2Proof.Machine
end

section
/-! TRANSMIT's chunked write (43_transmit.md R174 to R177), on a channel that answers: the chunks of a code, the loop over
them, and the whole operation. -/

namespace Sys2Proof.Machine

variable {s : State}

/-! ### the chunks of a code -/

/-- Chunk `k` has min(32, what is left) bytes (20_memory.md R70). -/
theorem chunkOf_length (code : List Byte) (k : Nat) : (chunkOf code k).length = min 32 (code.length - 32 * k) := by
  simp [chunkOf]

/-- Settles O50: the machine's chunks are those of the code, which join by `flatMap_chunkOf_chunkCount`; their lengths by
`chunkOf_length`. -/
theorem chunksJoinToTheCode : Obligations.ChunksJoinToTheCode := by
  intro code
  simp only [chunkAt_eq_chunkOf]
  refine ⟨flatMap_chunkOf_chunkCount code, fun heven k hk => ?_⟩
  have hlen := chunkOf_length code k
  unfold chunkCount at hk
  omega

/-! ### the loop -/

/-- The transactions of one more chunk with its handshake. -/
theorem dataPhaseTrace_append (code : List Byte) (front : List (Nat × Byte)) (m : Nat) (h : Byte) :
    dataPhaseTrace code (front ++ [(m, h)]) =
      dataPhaseTrace code front ++ [.write (chunkOf code front.length) m, .read 1 [h]] := by
  simp [dataPhaseTrace, List.range_succ, List.zip_append]

/-- The data phase, entered from `s`, once the chunks answered by `pairs` are written, with `outs` and `ins` still to come
(R174 to R177). -/
def State.writing (s : State) (pairs : List (Nat × Byte)) (outs : List OutAnswer) (ins : List InEvent) : State :=
  { s with
    hs := (pairs.map Prod.snd).getLastD s.hs, hsv := s.hsv || !pairs.isEmpty, cidx := 32 * pairs.length
    wsum := (pairs.map Prod.fst).sum, outAns := outs, inEvents := ins
    trace := s.trace ++ dataPhaseTrace s.cbuf pairs }

/-- Before the first chunk nothing has been written. -/
theorem State.writing_nil {outs : List OutAnswer} {ins : List InEvent} (hidx : s.cidx = 0) (hsum : s.wsum = 0)
    (ha : s.outAns = outs) (he : s.inEvents = ins) : s.writing [] outs ins = s := by
  cases s
  simp_all [State.writing, dataPhaseTrace]

/-- One chunk and its handshake: the loop goes on while CIDX is below CLEN, and then WSUM decides (R175 to R177). -/
theorem run_writing_chunk {front : List (Nat × Byte)} {m : Nat} {h : Byte} {outs : List OutAnswer} {ins : List InEvent}
    (hd : s.quiet) (hs : s.seq = .txWC) (hlen : s.clen = s.cbuf.length) (hmore : 32 * front.length < s.clen) :
    run 2 (s.writing front (.done m :: outs) (.byte h :: ins)) =
      .next { s.writing (front ++ [(m, h)]) outs ins with
        seq := if 32 * front.length + 32 < s.clen then .txWC
          else if (front.map Prod.fst).sum + m = s.clen then .txP3 else .txRecRst .p1
        pend := if 32 * front.length + 32 < s.clen ∨ (front.map Prod.fst).sum + m = s.clen then s.pend
          else some (.writeCountMismatch ((front.map Prod.fst).sum + m) s.clen) } := by
  have hslice : (s.writing front (.done m :: outs) (.byte h :: ins)).slice = chunkOf s.cbuf front.length := by
    rw [State.slice_eq_chunk, ← chunkAt_eq_chunkOf, ← hlen]; rfl
  have hne : chunkOf s.cbuf front.length ≠ [] := by
    have := chunkOf_length s.cbuf front.length
    exact List.length_pos_iff.mp (by omega)
  have hwrite := step_chunk (s := s.writing front (.done m :: outs) (.byte h :: ins)) (by simp [State.writing, hd]) hs
    (hslice ▸ hne) rfl
  refine (run_succ hwrite).trans
    ((run_succ (chunkHandshakeDecidesTheLoop _ h ins (by simp [State.writing, hd, countDown]) rfl rfl)).trans ?_)
  rw [hslice]
  simp [run, State.writing, dataPhaseTrace_append, hd, countDown, Nat.mul_add]

/-- The loop writes every chunk that another follows, whatever the counts (R175, R177). -/
theorem run_writing_front {front : List (Nat × Byte)} {outs : List OutAnswer} {ins : List InEvent} (hd : s.quiet)
    (hs : s.seq = .txWC) (hlen : s.clen = s.cbuf.length) (hmore : 32 * front.length < s.clen) :
    run (2 * front.length)
        (s.writing [] ((front.map fun p => .done p.1) ++ outs) (delivers (front.map Prod.snd) ++ ins)) =
      .next (s.writing front outs ins) := by
  induction front using List.reverseRecOn generalizing outs ins with
  | nil => rfl
  | append_singleton front p ih =>
    obtain ⟨m, h⟩ := p
    rw [List.length_append, List.length_singleton, Nat.mul_add] at hmore
    have hfront := ih (outs := .done m :: outs) (ins := .byte h :: ins) (by omega)
    have hchunk := run_writing_chunk (outs := outs) (ins := ins) (m := m) (h := h) hd hs hlen
      (Nat.lt_of_le_of_lt (Nat.le_add_right _ _) hmore)
    rw [List.length_append, List.length_singleton, Nat.mul_add, List.map_append, List.map_append, delivers,
      List.map_append, List.append_assoc, List.append_assoc]
    refine (run_add hfront).trans (hchunk.trans ?_)
    simp [hmore, State.writing, hs]

/-- The whole data phase: after the last chunk's handshake, and not before, WSUM decides (R177). -/
theorem run_writing {front pairs : List (Nat × Byte)} {m : Nat} {h : Byte} {outs : List OutAnswer}
    {ins : List InEvent} (hpairs : pairs = front ++ [(m, h)]) (hd : s.quiet) (hs : s.seq = .txWC) (hidx : s.cidx = 0)
    (hsum : s.wsum = 0) (hlen : s.clen = s.cbuf.length) (hcount : pairs.length = chunkCount s.clen)
    (ha : s.outAns = (pairs.map fun p => .done p.1) ++ outs) (he : s.inEvents = delivers (pairs.map Prod.snd) ++ ins) :
    run (2 * pairs.length) s = .next { s.writing pairs outs ins with
      seq := if (pairs.map Prod.fst).sum = s.clen then .txP3 else .txRecRst .p1
      pend := if (pairs.map Prod.fst).sum = s.clen then s.pend
        else some (.writeCountMismatch (pairs.map Prod.fst).sum s.clen) } := by
  subst hpairs
  have hlast : 32 * front.length < s.clen ∧ ¬ 32 * front.length + 32 < s.clen := by
    rw [List.length_append, List.length_singleton, chunkCount] at hcount
    omega
  obtain ⟨hmore, hend⟩ := hlast
  have hfront := run_writing_front (outs := .done m :: outs) (ins := .byte h :: ins) hd hs hlen hmore
  have hchunk := run_writing_chunk (outs := outs) (ins := ins) (m := m) (h := h) hd hs hlen hmore
  rw [State.writing_nil hidx hsum (by simp [ha]) (by simp [he, delivers])] at hfront
  rw [List.length_append, List.length_singleton, Nat.mul_add]
  refine (run_add hfront).trans (hchunk.trans ?_)
  simp [hend]

/-- Settles O49: the data phase from its first chunk, where WSUM is not CLEN. -/
theorem wrongWriteCountIsFoundAfterTheLastChunk : Obligations.WrongWriteCountIsFoundAfterTheLastChunk := by
  intro s m h front outs ins pairs hd hs hidx hsum hlen hne hcount hwrong ha he
  rw [run_writing rfl hd hs hidx hsum hlen hcount ha he, if_neg hwrong, if_neg hwrong]
  simp [State.writing, pairs]

/-! ### the whole operation -/

/-- TRANSMIT is accepted at REST with READY = 1, for a valid operand (R170). -/
theorem step_transmit_accepted {r : Request} {reqs : List Request} (hd : s.quiet) (hs : s.seq = .rest)
    (hy : s.ready = true) (hr : s.opIn = r :: reqs) (hop : r.op = 6) (hc : checkCode s.cfg r.operand = none) :
    step s = .next { s with
      opIn := reqs, cbuf := adjustCode r.operand, clen := (adjustCode r.operand).length, pend := none
      seq := .txP1 } := by
  have hdecode : decodeRequest r = .transmit r.operand := by simp [decodeRequest, hop]
  rw [step_quiet hd, stepSequencer_request hs hr, hdecode, exec_transmit_accepted hs hy hc, hr, List.tail_cons]

/-- The setup: the three commands, the handshake, and the pause that opens the data phase (R171 to R174). -/
theorem run_transmit_setup {a b c : Nat} {h0 : Byte} {outs : List OutAnswer} {ins : List InEvent} (hd : s.quiet)
    (hs : s.seq = .txP1) (ha : s.outAns = .done a :: .done b :: .done c :: outs) (he : s.inEvents = .byte h0 :: ins) :
    run 6 s = .next { s with
      mode := .transmit, hs := h0, hsv := true, cidx := 0, wsum := 0, seq := .txWC, outAns := outs, inEvents := ins
      trace := s.trace ++ [.pause, .write [0x26] a, .write [0x25] b, .write [0x03] c, .read 1 [h0], .pause] } := by
  calc run 6 s = run 5 { s with seq := .txW26, trace := s.trace ++ [.pause] } :=
        run_succ (step_pause_goesOn (o := none) hd hs rfl rfl rfl (by decide) (by decide))
    _ = run 4 { s with
          seq := .txW25, outAns := .done b :: .done c :: outs, trace := s.trace ++ [.pause] ++ [.write [0x26] a] } :=
        run_succ (step_command_done (c := .cmdTxHandshake) (o := none) hd rfl rfl rfl rfl ha)
    _ = run 3 { s with
          seq := .txW03, outAns := .done c :: outs
          trace := s.trace ++ [.pause] ++ [.write [0x26] a] ++ [.write [0x25] b] } :=
        run_succ (step_command_done (c := .cmdTxNotify) (o := none) hd rfl rfl rfl rfl rfl)
    _ = run 2 { s with
          seq := .txRH, outAns := outs
          trace := s.trace ++ [.pause] ++ [.write [0x26] a] ++ [.write [0x25] b] ++ [.write [0x03] c] } :=
        run_succ (step_command_done (c := .cmdTxStart) (o := none) hd rfl rfl rfl rfl rfl)
    _ = run 1 _ := run_succ (step_setupHandshake (by simp [hd]) rfl he)
    _ = run 0 _ := run_succ (step_dataPhaseBegins (by simp [hd, countDown]) rfl)
    _ = _ := by simp [run, hd, countDown]

/-- The state in which TRANSMIT enters its data phase: the request and the three counts taken, the setup handshake in HS
(R170 to R174). -/
def State.atDataPhase (s : State) (reqs : List Request) (code : List Byte) (a b c : Nat) (h0 : Byte)
    (outs : List OutAnswer) (ins : List InEvent) : State :=
  { s with
    opIn := reqs, mode := .transmit, hs := h0, hsv := true, cbuf := code, clen := code.length, cidx := 0, wsum := 0
    pend := none, seq := .txWC, outAns := outs, inEvents := ins
    trace := s.trace ++ [.pause, .write [0x26] a, .write [0x25] b, .write [0x03] c, .read 1 [h0], .pause] }

/-- TRANSMIT from acceptance to its data phase. -/
theorem run_transmit_entry {r : Request} {reqs : List Request} {a b c : Nat} {h0 : Byte} {outs : List OutAnswer}
    {ins : List InEvent} (hd : s.quiet) (hs : s.seq = .rest) (hy : s.ready = true) (hr : s.opIn = r :: reqs)
    (hop : r.op = 6) (hc : checkCode s.cfg r.operand = none)
    (ha : s.outAns = .done a :: .done b :: .done c :: outs) (he : s.inEvents = .byte h0 :: ins) :
    run 7 s = .next (s.atDataPhase reqs (adjustCode r.operand) a b c h0 outs ins) :=
  (run_succ (step_transmit_accepted hd hs hy hr hop hc)).trans (run_transmit_setup hd rfl ha he)

/-- The read of a report's head whose count decodes (R178). -/
theorem step_reportHead_ok {n : Half} {r0 r1 r2 : Byte} {rest : List InEvent} (hd : s.noResetDue) (hs : s.seq = .txR3)
    (hn : decodeCount s.cfg.countDecode r1 r2 = some n) (he : s.inEvents = delivers [r0, r1, r2] ++ rest) :
    step s = .next { s with
      bc := n, bcv := true, seq := .txR1, inEvents := rest, trace := s.trace ++ [.read 3 [r0, r1, r2]]
      rstIn := countDown s.rstIn } :=
  (step_reportHead hd hs (r := [r0, r1, r2]) rfl he).trans (reportReadDone_ok hs hn)

/-- The read of a flag that passes (R179). -/
theorem step_flag_pass {f : Byte} {rest : List InEvent} (hd : s.noResetDue) (hs : s.seq = .txR1)
    (hf : f = 0x63 ∨ f = 0x43) (he : s.inEvents = .byte f :: rest) :
    step s = .next { s with
      cf := f, cfv := true, seq := .txSmp (.rst .p1), inEvents := rest, trace := s.trace ++ [.read 1 [f]]
      rstIn := countDown s.rstIn } :=
  (step_flag hd hs he).trans (flagReadDone_pass hs ((completionOk_iff f).mpr hf))

/-- From the right count to the answer: the report, and the success exit (R178 to R180). -/
theorem run_transmit_exit {n : Half} {d e : Nat} {r0 r1 r2 f : Byte} {q : List Byte} {outs : List OutAnswer}
    {ins : List InEvent} (hd : s.quiet) (hs : s.seq = .txP3) (hn : decodeCount s.cfg.countDecode r1 r2 = some n)
    (hf : f = 0x63 ∨ f = 0x43) (hq : q.length = 3) (ha : s.outAns = .done d :: .done e :: outs)
    (he : s.inEvents = delivers [r0, r1, r2, f] ++ (delivers q ++ ins)) :
    run 10 s = .next { s with
      mode := .sampling, bc := n, bcv := true, cf := f, cfv := true, seq := .rest
      answers := s.answers ++ [.ok (.report n f)], outAns := outs, inEvents := ins
      trace := s.trace ++ [.pause, .read 3 [r0, r1, r2], .read 1 [f]] ++ sampleTrace d e q } := by
  calc run 10 s = run 9 { s with seq := .txR3, trace := s.trace ++ [.pause] } :=
        run_succ (step_pause_goesOn (o := none) hd hs rfl rfl rfl (by decide) (by decide))
    _ = run 8 _ := run_succ (step_reportHead_ok (rest := .byte f :: (delivers q ++ ins)) (by simp [hd]) rfl hn he)
    _ = run 7 _ := run_succ (step_flag_pass (by simp [hd, countDown]) rfl hf rfl)
    _ = .next _ := run_successExit (by simp [hd, countDown]) rfl ha hq rfl
    _ = _ := by simp [hd, countDown]

/-- Settles O48: the way in, the data phase, whose counts sum to CLEN, and the way out. -/
theorem transmitDeliversTheWholeCode : Obligations.TransmitDeliversTheWholeCode := by
  intro s r reqs a b c d e m h0 h r0 r1 r2 f front q outs ins code pairs hd hs hy hcfg hmax hr hop hlen heven hcount hsum
    hf hq ha he
  obtain ⟨n, hn, hdec⟩ := decodeCount_raw16be r1 r2
  refine ⟨n, hn, ?_⟩
  have hc : checkCode s.cfg r.operand = none := by
    simp [checkCode, Nat.lt_of_succ_le hlen, heven, tooLong, hmax]
  have he' : s.inEvents = .byte h0 :: (delivers (pairs.map Prod.snd) ++
      (delivers [r0, r1, r2, f] ++ (delivers q ++ ins))) := by
    rw [he, List.append_assoc, List.append_assoc]; rfl
  calc run (17 + 2 * pairs.length) s = run (7 + (2 * pairs.length + 10)) s := by congr 1; omega
    _ = run (2 * pairs.length + 10) _ := run_add (run_transmit_entry hd hs hy hr hop hc ha he')
    _ = run 10 _ := run_add (run_writing rfl hd rfl rfl rfl rfl hcount rfl rfl)
    _ = .next _ := run_transmit_exit hd (if_pos hsum) (hcfg ▸ hdec) hf hq rfl rfl
    _ = _ := by simpa [State.writing, State.atDataPhase, pairs, code, hs] using hsum

end Sys2Proof.Machine
end

section
/-! Rules over the whole machine (10_state.md sections 2, 3 and 10; 41_mode_transitions.md R133), each read off the moves of
`step_cases`: where MODE, READY and the data registers change. -/

namespace Sys2Proof.Machine

variable {s t : State}

/-- A hardware reset is due when the schedule begins with 0 (log 7). -/
theorem resetDue_iff : s.resetDue = true ↔ s.rstIn.head? = some 0 := decide_eq_true_iff

/-- With none due a step is a move of the sequencer. -/
theorem step_moves (hd : s.noResetDue) (h : step s = .next t) : Moves s.tick t :=
  stepSequencer_cases (step_of_noResetDue hd ▸ h)

/-! ### MODE -/

/-- The completion of a read assigns MODE at TX.RH only (43_transmit.md R173). -/
theorem ReadMoves.mode_eq {bs : List Byte} (h : ReadMoves bs s t) :
    t.mode = s.mode ∨ s.seq.sets s.cfg = some t.mode := by
  cases h with
  | setup hs => exact .inr (by rw [hs]; rfl)
  | _ => exact .inl rfl

/-- A move assigns MODE the value the position lists, or leaves it (R133). -/
theorem Moves.mode_eq (h : Moves s t) : t.mode = s.mode ∨ s.seq.sets s.cfg = some t.mode := by
  cases h with
  | command | pause | endsPlain => exact (Option.getD_eq_iff.mp rfl).symm.imp_left fun ⟨_, hkept⟩ => hkept.symm
  | constructs hs | transmits hs | recovers _ hs => exact .inr (by rw [hs]; rfl)
  | outFault | readFault => exact .inl (raise_mode _ _)
  | read k bs rest hm _ _ _ ht =>
    exact (readDone_cases (s := { s with inEvents := rest }.log (.read k bs)) hm ht).mode_eq
  | waits | illegal | notReady | construct | begins | receive | invalid | transmit | chunk | flush | receives
  | dataPhase => exact .inl rfl

/-- Settles O51: a due hardware reset, or the listed assignments of `Pos.sets_some`. -/
theorem modeChangesOnlyAtTransitionPoints : Obligations.ModeChangesOnlyAtTransitionPoints := by
  intro s t h hne
  rcases step_cases h with ⟨hdue, rfl⟩ | ⟨-, hm⟩
  · exact .inl ⟨resetDue_iff.mp hdue, rfl⟩
  · have hset : s.seq.sets s.cfg = some t.mode := hm.mode_eq.resolve_left hne
    exact .inr (s.seq.sets_some s.cfg t.mode hset)

/-! ### READY -/

/-- READY falls where CONSTRUCT is accepted and rises where it ends (10_state.md R22). -/
theorem Moves.ready_eq (h : Moves s t) : t.ready = s.ready ∨
    (s.seq = .rest ∧ (∃ r reqs, s.opIn = r :: reqs ∧ r.op = 0) ∧ t.seq = .conF ∧ t.ready = false) ∨
    (s.seq = .conSmp .p2 ∧ t.ready = true ∧ t.seq = .rest ∧ t.answers = s.answers ++ [.ok .nothing]) := by
  cases h with
  | construct r rs hs ho hr => exact .inr (.inl ⟨hs, ⟨r, rs, ho, hr⟩, rfl, rfl⟩)
  | constructs hs => exact .inr (.inr ⟨hs, rfl, rfl, rfl⟩)
  | outFault | readFault => exact .inl (raise_ready _ _)
  | read k bs rest hm _ _ _ ht =>
    refine .inl ?_
    cases readDone_cases (s := { s with inEvents := rest }.log (.read k bs)) hm ht <;> rfl
  | waits | illegal | notReady | begins | receive | invalid | transmit | command | chunk | flush | pause | endsPlain
  | receives | dataPhase | transmits | recovers => exact .inl rfl

/-- Settles O52: a due hardware reset, or one of the two moves of `Moves.ready_eq`. -/
theorem readyFollowsConstruct : Obligations.ReadyFollowsConstruct := by
  intro s t h hne
  rcases step_cases h with ⟨hdue, rfl⟩ | ⟨-, hm⟩
  · exact .inl ⟨resetDue_iff.mp hdue, rfl⟩
  · exact .inr (hm.ready_eq.resolve_left hne)

/-! ### the data registers -/

/-- Where a failure that is taken at SEQ changes PEND (60_exceptions.md R216, R219). -/
theorem raise_pend_listed {e : Exn} {u : State} (hs : u.seq = s.seq) (hp : u.pend = s.pend) :
    (raise e u).pend ≠ s.pend →
      (s.seq ∈ guardedPositions ∧ (raise e u).seq = .txRecRst .p1 ∧ (raise e u).pend.isSome = true) ∨
      (s.seq ∈ recoveryPositions ∧ (raise e u).seq = .rest ∧ (raise e u).pend = none) ∨
      (s.seq = .rest ∧ (raise e u).seq = .txP1 ∧ (raise e u).pend = none) := by
  intro hne
  rcases raise_pend_change (hp ▸ hne) with ⟨hg, hseq, hpend⟩ | ⟨hr, hseq, hpend⟩
  · exact .inl ⟨hs ▸ hg, hseq, by rw [hpend]; rfl⟩
  · exact .inr (.inl ⟨hs ▸ hr, hseq, hpend⟩)

/-- Settles O53: the registers that each move writes. -/
theorem dataRegistersAreWrittenOnlyWhereListed : Obligations.DataRegistersAreWrittenOnlyWhereListed := by
  intro s t hd h
  cases step_moves hd h with
  | waits | illegal | notReady | begins | invalid | command | flush | pause | endsPlain | constructs | receives
  | transmits => simp
  | construct _ _ hs | receive _ _ hs | transmit _ _ hs | chunk _ _ hs | dataPhase hs =>
    have hs : s.seq = _ := hs
    simp [hs]
  | recovers e hs =>
    have hs : s.seq = _ := hs
    simp [hs, recoveryPositions]
  | outFault | readFault =>
    refine ⟨?_, ?_, ?_, ?_, ?_, ?_, ?_, ?_, ?_, ?_, ?_, ?_, raise_pend_listed rfl rfl, raise_cfg _ _⟩ <;> simp
  | read k bs rest hm _ _ _ ht =>
    cases readDone_cases (s := { s.tick with inEvents := rest }.log (.read k bs)) hm ht with
    | dropped => simp
    | versionFails hs =>
      have hs : s.seq = _ ∨ s.seq = _ := hs
      simp [hs]
    | versionAnswer hs | versionGoesOn hs | received hs | setup hs | report hs | flagPasses hs =>
      have hs : s.seq = _ := hs
      simp [hs]
    | reportFails hs | flagFails hs =>
      have hs : s.seq = _ := hs
      simp [hs, guardedPositions]
    | handshake hs =>
      have hs : s.seq = _ := hs
      by_cases hmore : s.cidx + 32 < s.clen
      · simp [hs, hmore]
      by_cases hsum : s.wsum = s.clen
      · simp [hs, hmore, hsum]
      · simp [hs, hmore, hsum, guardedPositions]

end Sys2Proof.Machine
end

section
/-! Answers and transactions over the whole machine (30_encoding.md R81; 00_scope.md R11, R13), read off the moves of
`step_cases`. -/

namespace Sys2Proof.Machine

variable {s t : State}

/-! ### answers -/

/-- A move delivers one answer and is at REST, or delivers none and is busy. -/
def State.answersBy (s t : State) : Prop :=
  t.seq = .rest ∧ (∃ a, t.answers = s.answers ++ [a]) ∨ t.seq ≠ .rest ∧ t.answers = s.answers

/-- Taking a failure is an answer, but for recovery entry (60_exceptions.md R215, R216, R219). -/
theorem raise_answersBy (e : Exn) (s : State) : s.answersBy (raise e s) := by
  cases hr : s.seq.region with
  | guarded => rw [raise_guarded _ _ hr]; exact .inr ⟨by simp, rfl⟩
  | recovery => rw [raise_recovery _ _ hr]; exact .inl ⟨rfl, _, rfl⟩
  | plain => rw [raise_plain _ _ hr]; exact .inl ⟨rfl, _, rfl⟩

/-- The completion of a read answers for FWREV, and where CONSTRUCT fails its version. -/
theorem ReadMoves.answersBy {bs : List Byte} (h : ReadMoves bs s t) : s.answersBy t := by
  cases h with
  | versionFails | versionAnswer => exact .inl ⟨rfl, _, rfl⟩
  | received => exact .inr ⟨by dsimp only; split <;> simp, rfl⟩
  | handshake => exact .inr ⟨by dsimp only; split_ifs <;> simp, rfl⟩
  | dropped q hx =>
    have hbusy : ∀ x ∈ sampleReadSites, x.2 ≠ .rest := by decide
    exact .inr ⟨hbusy _ hx, rfl⟩
  | versionGoesOn | setup | reportFails | report | flagPasses | flagFails => exact .inr ⟨by simp, rfl⟩

/-- From an operation a move comes to REST with an answer, or goes on without one (R81). -/
theorem Moves.answersBy (hb : s.seq ≠ .rest) (h : Moves s t) : s.answersBy t := by
  cases h with
  | illegal _ _ hs | notReady _ _ hs | construct _ _ hs | begins _ _ _ hs | receive _ _ hs | invalid _ _ _ hs
  | transmit _ _ hs => exact absurd hs hb
  | waits => exact .inr ⟨hb, rfl⟩
  | outFault x rest e => exact raise_answersBy _ ({ s with outAns := rest }.log e)
  | readFault k x rest => exact raise_answersBy _ ({ s with inEvents := rest }.log (.readFault k x))
  | command c _ _ hm =>
    obtain ⟨hnext, -⟩ := commandSites_complete s.seq c (Pos.micro_command _ hm) hm
    exact .inr ⟨hnext, rfl⟩
  | pause _ hn => exact .inr ⟨hn, rfl⟩
  | read k bs rest hm _ _ _ ht =>
    exact (readDone_cases (s := { s with inEvents := rest }.log (.read k bs)) hm ht).answersBy
  | chunk | flush | dataPhase => exact .inr ⟨by simp, rfl⟩
  | endsPlain | constructs | receives | transmits | recovers => exact .inl ⟨rfl, _, rfl⟩

/-- From REST a move begins an operation, waits, or refuses the request with its answer (R82). -/
theorem Moves.from_rest (hs : s.seq = .rest) (h : Moves s t) :
    (t.seq ≠ .rest ∧ t.answers = s.answers ∧ t.opIn = s.opIn.tail) ∨
      t.seq = .rest ∧ (t = s ∨ ∃ e, t = { s with opIn := s.opIn.tail, answers := s.answers ++ [.fail e] }) := by
  have hrefused : ∀ e, s.takeRequest.finish (.fail e) =
      { s with opIn := s.opIn.tail, answers := s.answers ++ [.fail e] } := fun e => by
    rw [State.finish, State.takeRequest, ← hs]
  cases h with
  | waits => exact .inr ⟨hs, .inl rfl⟩
  | illegal | notReady | invalid => exact .inr ⟨rfl, .inr ⟨_, hrefused _⟩⟩
  | begins _ _ first _ _ hf =>
    refine .inl ⟨?_, rfl, rfl⟩
    rcases hf with ⟨-, rfl⟩ | ⟨-, rfl⟩ | ⟨-, rfl⟩ | ⟨-, rfl⟩ <;> simp
  | construct | receive | transmit => exact .inl ⟨by simp, rfl, rfl⟩
  | outFault _ _ _ hb => exact absurd hs hb
  | command _ _ _ hm | pause hm | readFault _ _ _ hm | read _ _ _ hm => simp [hs, Pos.micro] at hm
  | endsPlain h => simp [hs] at h
  | chunk _ _ h | flush _ _ h | constructs h | receives h | dataPhase h | transmits h | recovers _ h => simp [hs] at h

/-- Settles O56: a move from an operation by `Moves.answersBy`, one from REST by `Moves.from_rest`. -/
theorem everyOperationEndsInOneAnswer : Obligations.EveryOperationEndsInOneAnswer := by
  intro s t hd h
  have hbusy (hb : s.seq ≠ .rest) := (step_moves hd h).answersBy (s := s.tick) hb
  have hrest (hs : s.seq = .rest) := (step_moves hd h).from_rest (s := s.tick) hs
  refine ⟨fun hb hr => ?_, fun hb hbt => ?_, fun hs hbt => ?_, fun hs hr => ?_⟩
  · rcases hbusy hb with ⟨-, ha⟩ | ⟨hbt, -⟩
    · exact ha
    · exact absurd hr hbt
  · rcases hbusy hb with ⟨hr, -⟩ | ⟨-, ha⟩
    · exact absurd hr hbt
    · exact ha
  · rcases hrest hs with ⟨-, ha⟩ | ⟨hr, -⟩
    · exact ha
    · exact absurd hr hbt
  · rcases hrest hs with ⟨hbt, -⟩ | ⟨-, hstay⟩
    · exact absurd hr hbt
    · exact hstay

/-! ### transactions -/

/-- The bytes that a transaction writes, answered or faulted. -/
def Event.writes (ev : Event) (bs : List Byte) : Prop := (∃ n, ev = .write bs n) ∨ ∃ x, ev = .writeFault bs x

@[simp] theorem Event.writes_write (cs bs : List Byte) (n : Nat) : (Event.write cs n).writes bs ↔ bs = cs := by
  simp [Event.writes, eq_comm]

@[simp] theorem Event.writes_writeFault (cs bs : List Byte) (x : FaultInfo) :
    (Event.writeFault cs x).writes bs ↔ bs = cs := by
  simp [Event.writes, eq_comm]

/-- What may be written at SEQ: the string of a command listed there, or the slice at TX.WC (R85; 20_memory.md R70). -/
def State.mayWrite (s : State) (bs : List Byte) : Prop :=
  (∃ c q, (c, bs) ∈ commandStrings ∧ (c, s.seq, q) ∈ commandSites) ∨ (s.seq = .txWC ∧ bs = s.slice)

/-- A command position may write its command's bytes. -/
theorem State.mayWrite_command {c : Instr} (hm : s.seq.micro = .command c) : s.mayWrite c.wireBytes := by
  have hc := Pos.micro_command _ hm
  obtain ⟨-, -, hsite⟩ := commandSites_complete _ c hc hm
  have hstring : ∀ c ∈ [Instr.cmdReset, .cmdVersion, .cmdSample, .cmdIr, .cmdTxHandshake, .cmdTxNotify, .cmdTxStart],
      (c, c.wireBytes) ∈ commandStrings := by decide
  exact .inl ⟨c, _, hstring c hc, hsite⟩

/-- A move logs one transaction at most, and writes what may be written (R11, R85). -/
theorem Moves.trace_eq (h : Moves s t) :
    t.trace = s.trace ∨ ∃ ev, t.trace = s.trace ++ [ev] ∧ ∀ bs, ev.writes bs → s.mayWrite bs := by
  cases h with
  | waits | illegal | notReady | construct | begins | receive | invalid | transmit => exact .inl rfl
  | flush | pause | endsPlain | constructs | receives | dataPhase | transmits | recovers =>
    exact .inr ⟨_, rfl, fun bs hw => by simp [Event.writes] at hw⟩
  | readFault k x rest => exact .inr ⟨.readFault k x, raise_trace _ _, fun bs hw => by simp [Event.writes] at hw⟩
  | read k bs rest hm _ _ _ ht =>
    refine .inr ⟨.read k bs, ?_, fun bs hw => by simp [Event.writes] at hw⟩
    cases readDone_cases (s := { s with inEvents := rest }.log (.read k bs)) hm ht <;> rfl
  | command c n rest hm =>
    exact .inr ⟨_, rfl, fun bs hw => by rw [(Event.writes_write _ _ _).mp hw]; exact State.mayWrite_command hm⟩
  | chunk n rest hs =>
    exact .inr ⟨_, rfl, fun bs hw => .inr ⟨hs, by rw [State.slice_eq_chunk]; exact (Event.writes_write _ _ _).mp hw⟩⟩
  | outFault x rest e _ _ _ he =>
    refine .inr ⟨e, raise_trace _ _, fun bs hw => ?_⟩
    rcases he with ⟨-, rfl⟩ | ⟨c, hm, rfl⟩ | ⟨hs, -, rfl⟩
    · simp [Event.writes] at hw
    · rw [(Event.writes_writeFault _ _ _).mp hw]
      exact State.mayWrite_command hm
    · rw [(Event.writes_writeFault _ _ _).mp hw, ← State.slice_eq_chunk]
      exact .inr ⟨hs, rfl⟩

/-- Settles O57: a due hardware reset performs no transaction, and a move by `Moves.trace_eq`. -/
theorem oneTransactionAStepAndOnlyTableStrings : Obligations.OneTransactionAStepAndOnlyTableStrings := by
  intro s t h
  rcases step_cases h with ⟨-, rfl⟩ | ⟨-, hm⟩
  · exact .inl rfl
  · exact hm.trace_eq

end Sys2Proof.Machine
end

section
/-! Noninterference of MODE and of HS (10_state.md R21, R23): no rule reads either register. One argument serves both: states
that differ in the two registers only, by any two reflexive relations, take steps that differ so. -/

namespace Sys2Proof.Machine

variable {M : Mode → Mode → Prop} {H : Byte → Byte → Prop} {s t : State}

/-- The states differ in MODE and HS at most, and there as `M` and `H` allow. -/
def SameBut (M : Mode → Mode → Prop) (H : Byte → Byte → Prop) (s t : State) : Prop :=
  ∃ m h, M s.mode m ∧ H s.hs h ∧ t = { s with mode := m, hs := h }

/-- The outcomes stop alike, or their next states differ so. -/
inductive SameOut (M : Mode → Mode → Prop) (H : Byte → Byte → Prop) : Out → Out → Prop where
  | next {s t : State} (h : SameBut M H s t) : SameOut M H (.next s) (.next t)
  | fault (r : Fault) : SameOut M H (.fault r) (.fault r)
  | refused (r : Refusal) : SameOut M H (.refused r) (.refused r)

/-- The operation reads neither register. -/
def Blind (M : Mode → Mode → Prop) (H : Byte → Byte → Prop) (k : State → Out) : Prop :=
  ∀ s t, SameBut M H s t → SameOut M H (k s) (k t)

/-! ### the shared operations -/

/-- An update of other registers, of which neither relation speaks. -/
theorem SameBut.finish (h : SameBut M H s t) (a : Answer) : SameBut M H (s.finish a) (t.finish a) := by
  obtain ⟨m, b, hm, hb, rfl⟩ := h
  exact ⟨m, b, hm, hb, rfl⟩

theorem SameBut.log (h : SameBut M H s t) (e : Event) : SameBut M H (s.log e) (t.log e) := by
  obtain ⟨m, b, hm, hb, rfl⟩ := h
  exact ⟨m, b, hm, hb, rfl⟩

theorem SameBut.raise (e : Exn) (h : SameBut M H s t) : SameBut M H (raise e s) (raise e t) := by
  obtain ⟨m, b, hm, hb, rfl⟩ := h
  unfold Machine.raise
  dsimp only
  split <;> exact ⟨m, b, hm, hb, rfl⟩

theorem chWrite_blind {k : Nat → State → Out} (bs : List Byte) (hk : ∀ n, Blind M H (k n)) :
    Blind M H (chWrite bs k) := by
  rintro s _ ⟨m, b, hm, hb, rfl⟩
  unfold chWrite
  dsimp only
  split
  · exact .next ⟨m, b, hm, hb, rfl⟩
  · exact hk _ _ _ ⟨m, b, hm, hb, rfl⟩
  · exact .next (SameBut.raise _ ⟨m, b, hm, hb, rfl⟩)

theorem chFlush_blind {k : State → Out} (hk : Blind M H k) : Blind M H (chFlush k) := by
  rintro s _ ⟨m, b, hm, hb, rfl⟩
  unfold chFlush
  dsimp only
  split
  · exact .next ⟨m, b, hm, hb, rfl⟩
  · exact hk _ _ ⟨m, b, hm, hb, rfl⟩
  · exact .next (SameBut.raise _ ⟨m, b, hm, hb, rfl⟩)

theorem chRead_blind {done : List Byte → State → Out} (k : Nat) (hk : ∀ bs, Blind M H (done bs)) :
    Blind M H (chRead k done) := by
  rintro s _ ⟨m, b, hm, hb, rfl⟩
  unfold chRead
  dsimp only
  split
  · exact .next ⟨m, b, hm, hb, rfl⟩
  · exact hk _ _ _ ⟨m, b, hm, hb, rfl⟩
  · exact .next (SameBut.raise _ ⟨m, b, hm, hb, rfl⟩)

theorem atRest_blind {k : State → Out} (hk : Blind M H k) : Blind M H (atRest k) := by
  rintro s _ ⟨m, b, hm, hb, rfl⟩
  unfold atRest
  dsimp only
  split
  · exact hk _ _ ⟨m, b, hm, hb, rfl⟩
  · exact .refused _

theorem ifReady_blind {k : State → Out} (hk : Blind M H k) : Blind M H (ifReady k) := by
  rintro s _ ⟨m, b, hm, hb, rfl⟩
  unfold ifReady
  dsimp only
  split
  · exact hk _ _ ⟨m, b, hm, hb, rfl⟩
  · exact .next (SameBut.raise _ ⟨m, b, hm, hb, rfl⟩)

theorem begin_blind (p : Pos) : Blind M H (begin p) := by
  rintro s _ ⟨m, b, hm, hb, rfl⟩
  exact .next ⟨m, b, hm, hb, rfl⟩

section
variable (hM : ∀ m, M m m) (hH : ∀ b, H b b)
include hM

/-- The position's assignment to MODE does not depend on the MODE it replaces. -/
theorem SameBut.assignMode (h : SameBut M H s t) : SameBut M H s.assignMode t.assignMode := by
  obtain ⟨m, b, hm, hb, rfl⟩ := h
  refine ⟨(s.seq.sets s.cfg).getD m, b, ?_, hb, rfl⟩
  rw [State.assignMode_mode]
  cases s.seq.sets s.cfg with
  | none => exact hm
  | some m' => exact hM m'

theorem SameBut.advance (h : SameBut M H s t) : SameBut M H s.advance t.advance := by
  obtain ⟨m, b, hm, hb, ht⟩ := h.assignMode hM
  obtain ⟨_, _, -, -, rfl⟩ := h
  exact ⟨m, b, hm, hb, by rw [State.advance, ht]; rfl⟩

theorem emitCommand_blind (c : Instr) : Blind M H (emitCommand c) := by
  rintro s _ ⟨m, b, hm, hb, rfl⟩
  unfold emitCommand
  dsimp only
  split
  · exact chWrite_blind _ (fun _ _ _ h => .next (h.advance hM)) _ _ ⟨m, b, hm, hb, rfl⟩
  · exact .refused _

/-! ### the micro-operations and the rows -/

theorem pauseDone_blind : Blind M H pauseDone := by
  rintro s t h
  have hmode := h.assignMode hM
  have hadvance := h.advance hM
  obtain ⟨m, b, hm, hb, rfl⟩ := h
  unfold pauseDone
  dsimp only
  split
  · exact .next (hmode.finish _)
  · exact .next (hmode.finish _)
  · exact .next (hmode.finish _)
  · obtain ⟨m', b', hm', hb', ht⟩ := hmode
    rw [constructDone, constructDone, ht]
    exact .next ⟨m', b', hm', hb', rfl⟩
  · exact .next ⟨m, b, hm, hb, rfl⟩
  · exact .next (SameBut.advance hM ⟨m, b, hm, hb, rfl⟩)
  · exact .next (hmode.finish _)
  · obtain ⟨m', b', hm', hb', ht⟩ := hmode
    unfold returnFromRecovery
    dsimp only
    split
    · rw [ht]
      exact .next ⟨m', b', hm', hb', rfl⟩
    · exact .fault _
  · exact .next hadvance

include hH in
theorem readDone_blind (bs : List Byte) : Blind M H (readDone bs) := by
  rintro s t h
  have hadvance := h.advance hM
  obtain ⟨m, b, hm, hb, rfl⟩ := h
  unfold readDone
  dsimp only
  split
  · unfold fwrevReadDone
    dsimp only
    split
    · exact .next (SameBut.raise _ ⟨m, b, hm, hb, rfl⟩)
    · exact .next ⟨m, b, hm, hb, rfl⟩
  · unfold constructReadDone
    dsimp only
    split
    · exact .next (SameBut.raise _ ⟨m, b, hm, hb, rfl⟩)
    · split
      · exact .next (SameBut.raise _ ⟨m, b, hm, hb, rfl⟩)
      · exact .next (SameBut.advance hM ⟨m, b, hm, hb, rfl⟩)
  · unfold receiveReadDone
    dsimp only
    split
    · exact .refused _
    · split <;> exact .next ⟨m, b, hm, hb, rfl⟩
  · exact .next (SameBut.advance hM ⟨m, _, hm, hH _, rfl⟩)
  · unfold chunkHandshakeDone
    dsimp only
    split
    · exact .next ⟨m, _, hm, hH _, rfl⟩
    · split
      · exact .next (SameBut.raise _ ⟨m, _, hm, hH _, rfl⟩)
      · exact .next ⟨m, _, hm, hH _, rfl⟩
  · unfold reportReadDone
    dsimp only
    split
    · exact .next (SameBut.raise _ ⟨m, b, hm, hb, rfl⟩)
    · exact .next (SameBut.advance hM ⟨m, b, hm, hb, rfl⟩)
  · unfold flagReadDone
    dsimp only
    split
    · exact .next (SameBut.advance hM ⟨m, b, hm, hb, rfl⟩)
    · exact .next (SameBut.raise _ ⟨m, b, hm, hb, rfl⟩)
  · exact .next hadvance

theorem execData_blind (bytes : List Byte) : Blind M H (execData bytes) := by
  rintro s _ ⟨m, b, hm, hb, rfl⟩
  have hchunk : State.chunk { s with mode := m, hs := b } = s.chunk := rfl
  unfold execData
  rw [hchunk]
  dsimp only
  split
  · split
    · exact .fault _
    · refine chWrite_blind _ (fun n u v h => .next ?_) _ _ ⟨m, b, hm, hb, rfl⟩
      obtain ⟨m', b', hm', hb', rfl⟩ := h
      exact SameBut.advance hM ⟨m', b', hm', hb', rfl⟩
  · exact .refused _

omit hM in
theorem execTransmit_blind (code : List Byte) : Blind M H (execTransmit code) := by
  refine atRest_blind (ifReady_blind ?_)
  rintro s _ ⟨m, b, hm, hb, rfl⟩
  dsimp only
  split
  · exact .next (SameBut.raise _ ⟨m, b, hm, hb, rfl⟩)
  · exact .next ⟨m, b, hm, hb, rfl⟩

omit hM in
theorem execConstruct_blind : Blind M H execConstruct := by
  refine atRest_blind ?_
  rintro s _ ⟨m, b, hm, hb, rfl⟩
  exact .next ⟨m, b, hm, hb, rfl⟩

omit hM in
theorem execReceive_blind : Blind M H execReceive := by
  refine atRest_blind (ifReady_blind ?_)
  rintro s _ ⟨m, b, hm, hb, rfl⟩
  exact .next ⟨m, b, hm, hb, rfl⟩

theorem exec_blind (i : Instr) : Blind M H (exec i) := by
  cases i with
  | construct => exact execConstruct_blind
  | fwrev | reset | sample | irmode => exact atRest_blind (ifReady_blind (begin_blind _))
  | receive => exact execReceive_blind
  | transmit code => exact execTransmit_blind code
  | illegal => exact atRest_blind fun s t h => .next (h.raise _)
  | cmdReset | cmdVersion | cmdSample | cmdIr | cmdTxHandshake | cmdTxNotify | cmdTxStart => exact emitCommand_blind hM _
  | data bytes => exact execData_blind hM bytes

include hH

/-! ### the step -/

theorem stepSequencer_blind : Blind M H stepSequencer := by
  rintro s _ ⟨m, b, hm, hb, rfl⟩
  have hsame : SameBut M H s { s with mode := m, hs := b } := ⟨m, b, hm, hb, rfl⟩
  have hfetch : fetch { s with mode := m, hs := b } = fetch s := rfl
  unfold stepSequencer
  rw [hfetch]
  split
  · split
    · exact exec_blind hM _ _ _ hsame
    · unfold rejected
      split
      · exact .fault _
      · exact .refused _
      · exact .refused _
  · unfold microStep
    dsimp only
    split
    · exact pauseDone_blind hM _ _ (hsame.log _)
    · exact chFlush_blind (fun _ _ h => .next (h.advance hM)) _ _ hsame
    · exact chRead_blind _ (readDone_blind hM hH) _ _ hsame
    · exact .next hsame
    · exact .next hsame
    · exact .next hsame

/-- A step reads neither MODE nor HS. A due hardware reset overwrites both. -/
theorem step_blind : Blind M H step := by
  rintro s _ ⟨m, b, hm, hb, rfl⟩
  have hdue : State.resetDue { s with mode := m, hs := b } = s.resetDue := rfl
  unfold step
  rw [hdue]
  split
  · exact .next ⟨_, _, hM _, hH _, rfl⟩
  · exact stepSequencer_blind hM hH _ _ ⟨m, b, hm, hb, rfl⟩

end

/-- What the two outcomes have in common, by the kind of outcome. -/
theorem SameOut.elim {o o' : Out} (h : SameOut M H o o') :
    (∀ t, o = .next t → ∃ m b, M t.mode m ∧ H t.hs b ∧ o' = .next { t with mode := m, hs := b }) ∧
    (∀ e, o = .fault e → o' = .fault e) ∧ (∀ e, o = .refused e → o' = .refused e) := by
  cases h with
  | next h =>
    obtain ⟨m, b, hm, hb, rfl⟩ := h
    refine ⟨?_, by simp, by simp⟩
    rintro _ ⟨⟩
    exact ⟨m, b, hm, hb, rfl⟩
  | fault r => exact ⟨by simp, fun _ h => h, by simp⟩
  | refused r => exact ⟨by simp, by simp, fun _ h => h⟩

/-- Settles O54: `step_blind` for states that may differ in MODE and agree in HS. -/
theorem modeDecidesNothing : Obligations.ModeDecidesNothing := by
  intro s m
  have hsame : SameBut (fun _ _ => True) Eq s { s with mode := m } := ⟨m, s.hs, trivial, rfl, rfl⟩
  obtain ⟨hnext, hfault, hrefused⟩ := (step_blind (fun _ => trivial) (fun _ => rfl) _ _ hsame).elim
  refine ⟨fun t ht => ?_, hfault, hrefused⟩
  obtain ⟨m', _, -, rfl, hstep⟩ := hnext t ht
  exact ⟨m', hstep⟩

/-- Settles O55: `step_blind` for states that agree in MODE and may differ in HS. -/
theorem handshakeDecidesNothing : Obligations.HandshakeDecidesNothing := by
  intro s h
  have hsame : SameBut Eq (fun _ _ => True) s { s with hs := h } := ⟨s.mode, h, rfl, trivial, rfl⟩
  obtain ⟨hnext, hfault, hrefused⟩ := (step_blind (fun _ => rfl) (fun _ => trivial) _ _ hsame).elim
  refine ⟨fun t ht => ?_, hfault, hrefused⟩
  obtain ⟨_, h', rfl, -, hstep⟩ := hnext t ht
  exact ⟨h', hstep⟩

end Sys2Proof.Machine
end
